-- ==== Sys2Proof/Word.lean ====
section
/-! DEFINITION. The widths of the block (spec 00_scope.md R11, R12, R13): bytes, register ids, scales, 32-bit
control registers, byte strings, and the access widths 1, 2 and 4 bytes. -/

namespace Sys2Proof

/-- An 8-bit value (00_scope.md R13). -/
abbrev Byte := BitVec 8

/-- A byte string: a finite sequence of 8-bit values (00_scope.md R13). -/
abbrev Bytes := List Byte

/-- A 16-bit register id (00_scope.md R11). -/
abbrev RegId := BitVec 16

/-- A scale: an IEEE 754 binary32 bit pattern, stored and compared bit for bit (00_scope.md R19). -/
abbrev Scale := BitVec 32

/-- A 32-bit control or status register value (45_tx_and_control.md R300). -/
abbrev Word := BitVec 32

/-- The access widths of the block: 1, 2 or 4 bytes (20_memory.md R78, 30_encoding.md R111). -/
inductive Width where
  | u8
  | u16
  | u32
deriving DecidableEq, Repr, Inhabited

/-- A width in bytes. -/
def Width.bytes : Width → Nat
  | .u8 => 1
  | .u16 => 2
  | .u32 => 4

end Sys2Proof
end

