-- ==== Sys2Proof/Config.lean ====
section
/-! DEFINITION. What an instance is built with (spec 00_scope.md R10, 10_state.md R45): the parameters, the
register descriptors of 43_register_decode.md R230, the text map of 44_register_cache.md R270, the raw form in which a
host hands a configuration over (30_encoding.md R111), and the opaque constants for what the spec leaves OPEN. -/

namespace Sys2Proof

/-- One pair of an Enum descriptor's map: a raw value and its label string (30_encoding.md R111). -/
structure EnumEntry where
  raw : BitVec 32
  label : Bytes
deriving DecidableEq, Repr, Inhabited

/-- A decode strategy with the data that only it has (30_encoding.md R111, 00_scope.md R23). -/
inductive DescKind where
  | scalarNumeric
  | bitFlags
  | enum (map : List EnumEntry)
  | compositeRecord (fields : List Width)
  | rawString
deriving DecidableEq, Repr, Inhabited

/-- A register descriptor without its id. The width is not read for CompositeRecord and RawString
(30_encoding.md R111). -/
structure DescBody where
  width : Width
  scale : Scale
  kind : DescKind
deriving DecidableEq, Repr, Inhabited

/-- A register descriptor (00_scope.md R23). -/
structure Descriptor where
  id : RegId
  body : DescBody
deriving DecidableEq, Repr, Inhabited

/-- How a text value is parsed (44_register_cache.md R270). -/
inductive TextParse where
  | decimal
  | text
deriving DecidableEq, Repr, Inhabited

/-- One entry of TEXT_MAP: a label and the triple it maps to (44_register_cache.md R270). -/
structure TextEntry where
  label : Bytes
  id : RegId
  scale : Scale
  parse : TextParse
deriving DecidableEq, Repr, Inhabited

/-- What an even hex digit count does (40_frame_codec.md R145). -/
inductive OddDigitPolicy where
  | reject
  | ignoreLast
deriving DecidableEq, Repr, Inhabited

/-- The configuration of an instance: fixed when it is built, written by no operation (10_state.md R45).
The maps are lists in which the first entry for a key is the map's value: DESIGN CHOICE, log entry 5. -/
structure Cfg where
  regTable : List Descriptor
  textMap : List TextEntry
  burstLabels : List Bytes
  hexCap : Nat
  queueDepth : Nat
  oddDigitPolicy : OddDigitPolicy
deriving DecidableEq, Repr, Inhabited

/-- A descriptor as the host writes it down, before any check: a kind code, a width in bytes, and a `map` and
`fields`, each given or not, that may stand on the wrong kind (30_encoding.md R111). -/
structure RawDescriptor where
  id : RegId
  kind : Nat
  width : Nat
  scale : Scale
  map : Option (List EnumEntry)
  fields : Option (List Nat)
deriving DecidableEq, Repr, Inhabited

/-- A configuration as the host writes it down, before any check (70_reset_and_hazards.md R353). -/
structure RawCfg where
  regTable : List RawDescriptor
  textMap : List TextEntry
  burstLabels : List Bytes
  hexCap : Nat
  queueDepth : Nat
  oddDigitPolicy : OddDigitPolicy
deriving DecidableEq, Repr, Inhabited

/-- BUF_CAP: capacity of a frame buffer (00_scope.md R10). -/
def Config.bufCap : Nat := 512

/-- MAX_PAYLOAD: the most payload bytes after the 4-byte header (00_scope.md R10). -/
def Config.maxPayload : Nat := 508

/-- LABEL_MAX: the most bytes of a text label (00_scope.md R10). -/
def Config.labelMax : Nat := 9

/-- VALUE_MAX: the most bytes of a text value (00_scope.md R10). -/
def Config.valueMax : Nat := 33

/-- HEX_CAP as 00_scope.md R10 states it. -/
def Config.hexCap : Nat := 1025

/-- QUEUE_DEPTH: the default of 00_scope.md R10. -/
def Config.queueDepth : Nat := 16

/-- BTHR after reset (00_scope.md R10, 10_state.md R43). -/
def Config.bthrReset : BitVec 8 := 9

/-- The binary32 patterns of 1.0, 0.01 and 0.001 (93_implementation_defined.md G2). -/
def Config.scaleOne : Scale := 0x3F800000

def Config.scaleHundredth : Scale := 0x3C23D70A

def Config.scaleThousandth : Scale := 0x3A83126F

/-- BURST_LABELS: PID, FWE, SER#, V, I, T, ERR, CS, HC# (00_scope.md R10). -/
def Config.burstLabels : List Bytes :=
  [[0x50, 0x49, 0x44], [0x46, 0x57, 0x45], [0x53, 0x45, 0x52, 0x23], [0x56], [0x49], [0x54],
   [0x45, 0x52, 0x52], [0x43, 0x53], [0x48, 0x43, 0x23]]

/-- Register 0x0104 (43_register_decode.md R230, normative). -/
def Config.desc0104 : Descriptor := ⟨0x0104, ⟨.u8, Config.scaleOne, .scalarNumeric⟩⟩

/-- Register 0xEDD5 (43_register_decode.md R230; its width 2 is the spec's general knowledge G4). -/
def Config.descEDD5 : Descriptor := ⟨0xEDD5, ⟨.u16, Config.scaleHundredth, .scalarNumeric⟩⟩

/-- Register 0x1070, the cycle history (43_register_decode.md R230, R241). DESIGN CHOICE, log entry 6, safe: the
spec gives this descriptor no width, and no rule reads the width of a CompositeRecord. -/
def Config.desc1070 : Descriptor :=
  ⟨0x1070, ⟨.u8, Config.scaleOne,
    .compositeRecord [.u32, .u32, .u32, .u32, .u32, .u32, .u32, .u32, .u32, .u32, .u16, .u16, .u8, .u8]⟩⟩

/-- DESC_0201: register 0x0201 is in the table; its kind, width and scale are OPEN (43_register_decode.md R230).
A free constant, log entry 5, safe. -/
opaque Config.desc0201 : DescBody

/-- The rest of REG_TABLE, ENUM_MAPS among it, which is OPEN (43_register_decode.md R230). A free constant, log
entry 5, safe. -/
opaque Config.openRegTable : List Descriptor

/-- The rest of TEXT_MAP, which is OPEN (44_register_cache.md R270). A free constant, log entry 5, safe. -/
opaque Config.openTextMap : List TextEntry

/-- What the 11-bit HLEN field of PSTAT shows for a digit count above 2047, which a configured HEX_CAP allows and
45_tx_and_control.md R301 gives no value for. A free value, log entry 9, DESIGN CHOICE, safe. -/
opaque Config.hlenOverflow : Nat → BitVec 11

/-- The entries of REG_TABLE that the spec gives, and 0x0201 with its OPEN body (43_register_decode.md R230). -/
def Config.knownRegTable : List Descriptor :=
  [Config.desc0104, Config.descEDD5, Config.desc1070, ⟨0x0201, Config.desc0201⟩]

/-- The ids of a table are unique (30_encoding.md R111). -/
def Config.idsUnique (t : List Descriptor) : Bool := decide (t.map (·.id)).Nodup

/-- REG_TABLE of the instance the model runs from: what the spec gives, then the OPEN rest, which R111 lets the
instance be built with only if the ids are unique. -/
def Config.regTable : List Descriptor :=
  if Config.idsUnique (Config.knownRegTable ++ Config.openRegTable) = true
  then Config.knownRegTable ++ Config.openRegTable else Config.knownRegTable

/-- The entry V -> (0xED8D, 0.001, Decimal) (44_register_cache.md R270, normative). -/
def Config.textV : TextEntry := ⟨[0x56], 0xED8D, Config.scaleThousandth, .decimal⟩

/-- TEXT_MAP of the instance the model runs from: V, then the OPEN rest. -/
def Config.textMap : List TextEntry := Config.textV :: Config.openTextMap

/-- The configuration of the instance the model runs from: the values and defaults of 00_scope.md R10. -/
def Config.cfg : Cfg where
  regTable := Config.regTable
  textMap := Config.textMap
  burstLabels := Config.burstLabels
  hexCap := Config.hexCap
  queueDepth := Config.queueDepth
  oddDigitPolicy := .reject

end Sys2Proof
end

