-- ==== Sys2Proof/Machine/Descriptor.lean ====
section
/-! DEFINITION. What a well-formed register descriptor is (spec 30_encoding.md R111, R112): the numeric kind codes,
and the check from the raw form a host writes down to a typed descriptor, refusing by name. -/

namespace Sys2Proof.Machine

/-- Why a raw descriptor is ill-formed (30_encoding.md R111). -/
inductive DescProblem where
  /-- A kind outside 0..4. -/
  | badKind
  /-- A width outside 1, 2, 4. -/
  | badWidth
  /-- A `map`, empty or not, given on a kind other than Enum. -/
  | mapOnWrongKind
  /-- `fields`, empty or not, given on a kind other than CompositeRecord. -/
  | fieldsOnWrongKind
  /-- A composite field whose width is outside 1, 2, 4. -/
  | badFieldWidth
deriving DecidableEq, Repr

/-- The width of that many bytes (30_encoding.md R111). -/
def widthOf (n : Nat) : Option Width :=
  if n = 1 then some .u8 else if n = 2 then some .u16 else if n = 4 then some .u32 else none

/-- The widths of a list of byte counts, if each is 1, 2 or 4 (30_encoding.md R112). -/
def widthsOf : List Nat → Option (List Width)
  | [] => some []
  | n :: ns =>
    match widthOf n, widthsOf ns with
    | some w, some ws => some (w :: ws)
    | _, _ => none

/-- The kind code of a decode strategy (30_encoding.md R111). -/
def kindCode : DescKind → Nat
  | .scalarNumeric => 0
  | .bitFlags => 1
  | .enum _ => 2
  | .compositeRecord _ => 3
  | .rawString => 4

/-- The `map` a decode strategy is given: that of an Enum, none on the other kinds (30_encoding.md R111). -/
def kindMap : DescKind → Option (List EnumEntry)
  | .enum m => some m
  | .scalarNumeric => none
  | .bitFlags => none
  | .compositeRecord _ => none
  | .rawString => none

/-- The `fields` a decode strategy is given: those of a CompositeRecord, none on the other kinds (30_encoding.md
R111). -/
def kindFields : DescKind → Option (List Width)
  | .compositeRecord ws => some ws
  | .scalarNumeric => none
  | .bitFlags => none
  | .enum _ => none
  | .rawString => none

/-- The strategy of a kind code with its `map` and `fields`, refused where 30_encoding.md R111 calls it ill-formed: a
`map` or `fields` given on the wrong kind is refused even if it is empty. DESIGN CHOICE, log entry 5, unsafe: R111 does
not list an Enum without `map` or a CompositeRecord without `fields` as ill-formed, and the model takes the list that is
not given as empty. -/
def checkKind (kind : Nat) (map : Option (List EnumEntry)) (fields : Option (List Nat)) : Except DescProblem DescKind :=
  if 4 < kind then .error .badKind
  else if kind ≠ 2 ∧ map ≠ none then .error .mapOnWrongKind
  else if kind ≠ 3 ∧ fields ≠ none then .error .fieldsOnWrongKind
  else if kind = 0 then .ok .scalarNumeric
  else if kind = 1 then .ok .bitFlags
  else if kind = 2 then .ok (.enum (map.getD []))
  else if kind = 3 then
    match widthsOf (fields.getD []) with
    | some ws => .ok (.compositeRecord ws)
    | none => .error .badFieldWidth
  else .ok .rawString

/-- The typed descriptor of a raw one, refused where 30_encoding.md R111 calls it ill-formed. -/
def checkDescriptor (r : RawDescriptor) : Except DescProblem Descriptor :=
  match checkKind r.kind r.map r.fields with
  | .error e => .error e
  | .ok k =>
    match widthOf r.width with
    | none => .error .badWidth
    | some w => .ok ⟨r.id, ⟨w, r.scale, k⟩⟩

end Sys2Proof.Machine
end

