-- ==== Sys2Proof/Machine/Chars.lean ====
section
/-! DEFINITION. Bytes as characters: the ASCII codes of spec 30_encoding.md R103, hex digits (00_scope.md R17,
30_encoding.md R104), the byte classes of 30_encoding.md R106, and little-endian numbers (00_scope.md R15). -/

namespace Sys2Proof.Machine

abbrev chTab : Byte := 0x09
abbrev chLf : Byte := 0x0A
abbrev chCr : Byte := 0x0D
abbrev chHash : Byte := 0x23
abbrev chMinus : Byte := 0x2D
abbrev chColon : Byte := 0x3A

/-- The value of an ASCII hex digit, undefined on any other byte (00_scope.md R17). -/
def hexval (c : Byte) : Option (BitVec 4) :=
  if 0x30#8 ≤ c ∧ c ≤ 0x39#8 then some ((c - 0x30#8).setWidth 4)
  else if 0x41#8 ≤ c ∧ c ≤ 0x46#8 then some ((c - 0x37#8).setWidth 4)
  else if 0x61#8 ≤ c ∧ c ≤ 0x66#8 then some ((c - 0x57#8).setWidth 4)
  else none

/-- `ishex(c)` is true exactly when `hexval(c)` is defined (00_scope.md R17). -/
def ishex (c : Byte) : Bool := (hexval c).isSome

/-- `HEXU(v)`: the uppercase digit of a nibble (30_encoding.md R104). -/
def hexu (v : BitVec 4) : Byte :=
  if v ≤ 9#4 then 0x30#8 + v.setWidth 8 else 0x37#8 + v.setWidth 8

/-- The two digits of a byte, high nibble first (30_encoding.md R100, 20_memory.md R75). -/
def hex2 (x : Byte) : Bytes := [hexu (x.extractLsb' 4 4), hexu (x.extractLsb' 0 4)]

/-- The byte classes (30_encoding.md R106). -/
inductive ByteClass where
  | colon
  | tab
  | cr
  | lf
  | hexdig
  | labelOnly
  | other
deriving DecidableEq, Repr

/-- Is `b` one of the bytes of class LABELONLY (30_encoding.md R106)? -/
def isLabelOnly (b : Byte) : Bool :=
  b = chHash || (0x47#8 ≤ b && b ≤ 0x5A#8) || (0x67#8 ≤ b && b ≤ 0x7A#8)

/-- The class of a byte, tested in the order of 30_encoding.md R106, the first match winning. -/
def classOf (b : Byte) : ByteClass :=
  if b = chColon then .colon
  else if b = chTab then .tab
  else if b = chCr then .cr
  else if b = chLf then .lf
  else if ishex b then .hexdig
  else if isLabelOnly b then .labelOnly
  else .other

/-- `islabel(c)`: a letter, a digit, `#` or `:` (00_scope.md R17). -/
def islabel (c : Byte) : Bool :=
  (0x41#8 ≤ c && c ≤ 0x5A#8) || (0x61#8 ≤ c && c ≤ 0x7A#8) || (0x30#8 ≤ c && c ≤ 0x39#8) ||
    c = chHash || c = chColon

/-- The unsigned number a byte string denotes, least significant byte first (00_scope.md R15, 20_memory.md R76). -/
def leNat : Bytes → Nat
  | [] => 0
  | b :: bs => b.toNat + 256 * leNat bs

/-- The `n` low bytes of a number, least significant first (00_scope.md R15). -/
def leBytes : Nat → Nat → Bytes
  | 0, _ => []
  | n + 1, v => BitVec.ofNat 8 v :: leBytes n (v / 256)

end Sys2Proof.Machine
end

