-- ==== Sys2Proof/Machine/Operands.lean ====
section
/-! DEFINITION. The decoded buffer D and what is read from it: MemRead and MemWrite (spec 00_scope.md R15), the
command codes and dispatch classes (30_encoding.md R108, R109), the header fields (30_encoding.md R101,
42_frame_dispatch.md R211) and the value field (00_scope.md R25, 43_register_decode.md R243). -/

namespace Sys2Proof.Machine

/-- `MemRead(a, n)`: the `n` bytes of `D` at `a`, little-endian (00_scope.md R15). -/
def memRead (d : Bytes) (a n : Nat) : Nat := leNat ((d.drop a).take n)

/-- `MemWrite(a, n, v)`: `v` little-endian at `D[a..a+n)`; a write at the end of `D` extends it (00_scope.md R15,
40_frame_codec.md R147). -/
def memWrite (d : Bytes) (a n v : Nat) : Bytes := d.take a ++ leBytes n v ++ d.drop (a + n)

/-- The decoder's filling of `D`: `MemWrite(k, 1, T[k])` for each `k` in order (40_frame_codec.md R147). -/
def fillBuffer (d : Bytes) : Bytes → Bytes
  | [] => d
  | b :: bs => fillBuffer (memWrite d d.length 1 b.toNat) bs

abbrev cmdPing : Byte := 0x01
abbrev cmdAppver : Byte := 0x03
abbrev cmdProductId : Byte := 0x04
abbrev cmdPingResponse : Byte := 0x05
abbrev cmdRestart : Byte := 0x06
abbrev cmdGet : Byte := 0x07
abbrev cmdSet : Byte := 0x08
abbrev cmdAsync : Byte := 0x0A

/-- The response codes that share values with commands (30_encoding.md R108). -/
abbrev respDone : Byte := 0x01

abbrev respUnknown : Byte := 0x03

abbrev respError : Byte := 0x04

/-- The dispatch classes (30_encoding.md R109). -/
inductive CmdClass where
  | reg
  | ping
  | none
deriving DecidableEq, Repr

/-- The dispatch class of a command (30_encoding.md R109). -/
def cmdClass (cmd : Byte) : CmdClass :=
  if cmd = cmdGet ∨ cmd = cmdSet ∨ cmd = cmdAsync then .reg
  else if cmd = cmdPingResponse then .ping
  else .none

/-- `RespCmd(cmd)`: DONE for ASYNC, the command itself otherwise (42_frame_dispatch.md R215). -/
def respCmd (cmd : Byte) : Byte := if cmd = cmdAsync then respDone else cmd

/-- The command byte D[0] (30_encoding.md R101). An empty buffer, which only a descriptor row can be given, has command
0: DESIGN CHOICE, log entry 16, unsafe. -/
def frameCmd (d : Bytes) : Byte := d.headD 0

/-- The register id, `MemRead(1, 2)` (20_memory.md R72). -/
def frameId (d : Bytes) : BitVec 16 := BitVec.ofNat 16 (memRead d 1 2)

/-- The flags byte D[3] (30_encoding.md R101). -/
def frameFlags (d : Bytes) : Byte := d.getD 3 0

/-- The flags byte where D has one (42_frame_dispatch.md R212). -/
def frameFlags? (d : Bytes) : Option Byte := d[3]?

/-- The low and high byte of a register id, in wire order (20_memory.md R72). -/
def idBytes (id : BitVec 16) : Bytes := [id.setWidth 8, id.extractLsb' 8 8]

/-- The value field D[4..nD) (43_register_decode.md R243). -/
def valueField (d : Bytes) : Bytes := d.drop 4

end Sys2Proof.Machine
end

