-- ==== Sys2Proof/Syntax.lean ====
section
/-! DEFINITION. The instructions of the block: one constructor for each mnemonic of spec/opcode_table.json, and the
values their operands are made of (register values 00_scope.md R18, error kinds 60_exceptions.md R320, events
30_encoding.md R121). Rows of the table that share a mnemonic are the value ranges of one operand (log entry 4). -/

namespace Sys2Proof

/-- A text term (00_scope.md R18). -/
inductive TextTerm where
  | bytes (s : Bytes)
  | flagSet (m : BitVec 31)
  | enumLabel (s : Bytes)
deriving DecidableEq, Repr

/-- A register value (00_scope.md R18). Equality is that of R20: same variant, equal contents. -/
inductive RegValue where
  | number (k : Int)
  | str (t : TextTerm)
  | composite (fs : List (Width × Nat))
deriving DecidableEq, Repr

/-- The error kinds with the info each records (60_exceptions.md R320). -/
inductive BlockError where
  | checksumMismatch (raw : Bytes)
  | invalidLabelChar (b : Byte)
  | labelTooLong
  | unknownRegister (id : RegId) (reasons : BitVec 3)
  | payloadTooShort (cmd : Byte) (nD : Nat)
deriving DecidableEq, Repr

/-- The contents of a Frame event (30_encoding.md R121). `nD` and `cmd` are computed from `d`. -/
structure FrameEvent where
  d : Bytes
  id : Option RegId
  flags : Option Byte
  resp : Bytes
  raw : Bytes
deriving DecidableEq, Repr

/-- The events (30_encoding.md R121). -/
inductive Event where
  | textField (label value : Bytes)
  | frame (f : FrameEvent)
  | error (e : BlockError)
  | cacheChange (id : RegId) (scale : Scale) (value : RegValue)
deriving DecidableEq, Repr

/-- The six formats of spec/opcode_table.json: six spaces of words, each decoded on its own. -/
inductive Format where
  | hostOp
  | rxByteClass
  | vehexFrame
  | descriptorKind
  | eventTag
  | errorCode
deriving DecidableEq, Repr

/-- The instructions. -/
inductive Instr where
  /-- RX_BYTE (45_tx_and_control.md R290). -/
  | rxByte (b : Byte)
  /-- ENCODE (40_frame_codec.md R150). -/
  | encode (s : Bytes)
  /-- DECODE_FRAME (40_frame_codec.md R151). -/
  | decodeFrame (s : Bytes)
  /-- ENQUEUE (45_tx_and_control.md R291). -/
  | enqueue (s : Bytes)
  /-- CACHE_READ (45_tx_and_control.md R297). -/
  | cacheRead (id : RegId)
  /-- CACHE_INVALIDATE (45_tx_and_control.md R298). -/
  | cacheInvalidate (id : RegId)
  /-- CSR_READ (45_tx_and_control.md R295). -/
  | csrRead (a : Byte)
  /-- CSR_WRITE (45_tx_and_control.md R296). -/
  | csrWrite (a : Byte) (v : Word)
  /-- SESSION_RESET (45_tx_and_control.md R299). -/
  | sessionReset
  /-- RESET (45_tx_and_control.md R304). -/
  | reset
  /-- RESERVED_OP, op codes 0xA-0xF (45_tx_and_control.md R305). -/
  | reservedOp (op : BitVec 4)
  /-- BYTE_COLON: a received `:` (41_record_parser.md R173). -/
  | byteColon
  /-- BYTE_TAB: a received tab (41_record_parser.md R174, R175). -/
  | byteTab
  /-- BYTE_CR: a received CR (41_record_parser.md R176-R180). -/
  | byteCr
  /-- BYTE_LF: a received LF (41_record_parser.md R176-R180). -/
  | byteLf
  /-- BYTE_HEXDIG: a received hex digit (41_record_parser.md R181, R183-R186). -/
  | byteHexdig (b : Byte)
  /-- BYTE_LABELONLY: a received label byte that is no hex digit (41_record_parser.md R181, R183-R186). -/
  | byteLabelOnly (b : Byte)
  /-- BYTE_OTHER: any other received byte (41_record_parser.md R181, R182, R184-R186). -/
  | byteOther (b : Byte)
  /-- PING: the dispatch of a good frame with command 0x01 (42_frame_dispatch.md R219). -/
  | ping (rest raw : Bytes)
  /-- APPVER, command 0x03 (42_frame_dispatch.md R220). -/
  | appver (rest raw : Bytes)
  /-- PRODUCT_ID, command 0x04 (42_frame_dispatch.md R221). -/
  | productId (rest raw : Bytes)
  /-- PING_RESPONSE, command 0x05 (42_frame_dispatch.md R222). -/
  | pingResponse (rest raw : Bytes)
  /-- RESTART, command 0x06 (42_frame_dispatch.md R223). -/
  | restart (rest raw : Bytes)
  /-- GET, command 0x07 (42_frame_dispatch.md R224). -/
  | get (rest raw : Bytes)
  /-- SET, command 0x08 (42_frame_dispatch.md R225). -/
  | set (rest raw : Bytes)
  /-- ASYNC, command 0x0A (42_frame_dispatch.md R226). -/
  | async (rest raw : Bytes)
  /-- UNASSIGNED_CMD, commands 0x00, 0x02, 0x09, 0x0B-0x0F (42_frame_dispatch.md R227). -/
  | unassignedCmd (cmd : BitVec 4) (rest raw : Bytes)
  /-- DESC_ScalarNumeric: that strategy on the decoded buffer `d` (43_register_decode.md R236). -/
  | descScalarNumeric (id : RegId) (width : Width) (scale : Scale) (d : Bytes)
  /-- DESC_BitFlags (43_register_decode.md R237). -/
  | descBitFlags (id : RegId) (width : Width) (scale : Scale) (d : Bytes)
  /-- DESC_Enum (43_register_decode.md R238). -/
  | descEnum (id : RegId) (width : Width) (scale : Scale) (map : List EnumEntry) (d : Bytes)
  /-- DESC_CompositeRecord (43_register_decode.md R239). -/
  | descCompositeRecord (id : RegId) (width : Width) (scale : Scale) (fields : List Width) (d : Bytes)
  /-- DESC_RawString (43_register_decode.md R240). -/
  | descRawString (id : RegId) (width : Width) (scale : Scale) (d : Bytes)
  /-- EVT_TEXTFIELD: that event is appended (41_record_parser.md R178). -/
  | evtTextField (label value : Bytes)
  /-- EVT_FRAME (42_frame_dispatch.md R210). -/
  | evtFrame (f : FrameEvent)
  /-- EVT_ERROR (60_exceptions.md R320). -/
  | evtError (e : BlockError)
  /-- EVT_CACHECHANGE (44_register_cache.md R262). -/
  | evtCacheChange (id : RegId) (scale : Scale) (value : RegValue)
  /-- ERR_ChecksumMismatch: that error is raised (60_exceptions.md R320). -/
  | errChecksumMismatch (raw : Bytes)
  /-- ERR_InvalidLabelChar (60_exceptions.md R320). -/
  | errInvalidLabelChar (b : Byte)
  /-- ERR_LabelTooLong (60_exceptions.md R320). -/
  | errLabelTooLong
  /-- ERR_UnknownRegister (60_exceptions.md R320). -/
  | errUnknownRegister (id : RegId) (reasons : BitVec 3)
  /-- ERR_PayloadTooShort (60_exceptions.md R320). -/
  | errPayloadTooShort (cmd : Byte) (nD : Nat)
deriving DecidableEq, Repr

/-- The format of spec/opcode_table.json in which an instruction's word stands. -/
def Instr.format : Instr → Format
  | .rxByte _ | .encode _ | .decodeFrame _ | .enqueue _ | .cacheRead _ | .cacheInvalidate _ | .csrRead _
  | .csrWrite _ _ | .sessionReset | .reset | .reservedOp _ => .hostOp
  | .byteColon | .byteTab | .byteCr | .byteLf | .byteHexdig _ | .byteLabelOnly _ | .byteOther _ => .rxByteClass
  | .ping _ _ | .appver _ _ | .productId _ _ | .pingResponse _ _ | .restart _ _ | .get _ _ | .set _ _
  | .async _ _ | .unassignedCmd _ _ _ => .vehexFrame
  | .descScalarNumeric _ _ _ _ | .descBitFlags _ _ _ _ | .descEnum _ _ _ _ _ | .descCompositeRecord _ _ _ _ _
  | .descRawString _ _ _ _ => .descriptorKind
  | .evtTextField _ _ | .evtFrame _ | .evtError _ | .evtCacheChange _ _ _ => .eventTag
  | .errChecksumMismatch _ | .errInvalidLabelChar _ | .errLabelTooLong | .errUnknownRegister _ _
  | .errPayloadTooShort _ _ => .errorCode

end Sys2Proof
end

