-- ==== Sys2Proof/WellFormed.lean ====
section
/-! DEFINITION. When an instruction is well-formed: its operands lie in the ranges the spec gives the row, and in the
ranges the model's own operand layout can write (log entry 1). Each check has a name. -/

namespace Sys2Proof

open Sys2Proof.Machine

/-- The name of the check an ill-formed instruction fails. -/
inductive Problem where
  /-- RESERVED_OP with an op code below 0xA (45_tx_and_control.md R305). -/
  | opNotReserved
  /-- A BYTE row with a byte of another class (30_encoding.md R106). -/
  | wrongByteClass
  /-- UNASSIGNED_CMD with an assigned command (30_encoding.md R108). -/
  | commandAssigned
  /-- A decoded buffer outside 1..512 bytes (20_memory.md R70). -/
  | bufferLength
  /-- A raw digit string with a byte that is no hex digit (10_state.md R37). -/
  | rawNotHex
  /-- A TextField label over 9 bytes (30_encoding.md R121). -/
  | labelLength
  /-- A TextField value outside 1..33 bytes (30_encoding.md R121). -/
  | valueLength
  /-- A PayloadTooShort `nD` that does not fit its 10 bits (60_exceptions.md R320). -/
  | lengthTooLarge
  /-- A composite field value that does not fit its width (00_scope.md R18). -/
  | fieldTooLarge
  /-- A number the operand layout has no room for: 2^128 or more in magnitude (log entry 1). -/
  | numberTooLarge
  /-- A byte string or list with 2^32 elements or more, for which the operand layout has no length field (log entry 1). -/
  | tooLong
deriving DecidableEq, Repr

/-- The first check of a list that fails. -/
def firstProblem : List (Bool × Problem) → Option Problem
  | [] => none
  | (true, _) :: cs => firstProblem cs
  | (false, p) :: _ => some p

/-- A length that the operand layout can write. -/
def fits {α : Type} (l : List α) : Bool := decide (l.length < 4294967296)

/-- The checks on an error's info. DESIGN CHOICE, log entry 17, unsafe: an error row and EVT_ERROR, as instructions of
their own, take any info of the kind's form, also one that 60_exceptions.md R320 never records: a digit string that is
empty, longer than HEX_CAP or one that decodes, a byte of any class, an id that is in REG_TABLE, any command and any
`nD` below 1024. -/
def BlockError.checks : BlockError → List (Bool × Problem)
  | .checksumMismatch raw => [(fits raw, .tooLong), (raw.all ishex, .rawNotHex)]
  | .invalidLabelChar _ => []
  | .labelTooLong => []
  | .unknownRegister _ _ => []
  | .payloadTooShort _ nD => [(decide (nD < 1024), .lengthTooLarge)]

/-- The checks on a register value. -/
def RegValue.checks : RegValue → List (Bool × Problem)
  | .number k => [(decide (k.natAbs < 340282366920938463463374607431768211456), .numberTooLarge)]
  | .str (.bytes s) => [(fits s, .tooLong)]
  | .str (.flagSet _) => []
  | .str (.enumLabel s) => [(fits s, .tooLong)]
  | .composite fs => [(fits fs, .tooLong), (fs.all fun f => decide (f.2 < 256 ^ f.1.bytes), .fieldTooLarge)]

/-- The checks on a dispatched frame: the bytes after D[0] and the raw digits. DESIGN CHOICE, log entry 17, unsafe: as
an instruction of its own a frame row takes `raw` as a free operand, where 42_frame_dispatch.md R217 has the HBUF that D
was decoded from: any hex digit string, also one that is empty, does not spell D or is longer than HEX_CAP. -/
def frameChecks (rest raw : Bytes) : List (Bool × Problem) :=
  [(decide (rest.length < 512), .bufferLength), (fits raw, .tooLong), (raw.all ishex, .rawNotHex)]

/-- The checks on a Frame event. DESIGN CHOICE, log entry 17, unsafe: as an instruction of its own EVT_FRAME takes its
contents as free operands, also such as 30_encoding.md R121 never describes: an id or flags for any command or for none,
a D[0] above 0x0F, any response skeleton, any hex digit string. -/
def FrameEvent.checks (f : FrameEvent) : List (Bool × Problem) :=
  [(decide (1 ≤ f.d.length ∧ f.d.length ≤ 512), .bufferLength), (fits f.resp, .tooLong), (fits f.raw, .tooLong),
   (f.raw.all ishex, .rawNotHex)]

/-- The command values that no command is assigned (30_encoding.md R108). -/
def unassigned (c : BitVec 4) : Bool :=
  c = 0x0#4 || c = 0x2#4 || c = 0x9#4 || 0xB#4 ≤ c

/-- The checks on an instruction. DESIGN CHOICE, log entry 16, unsafe: the frame rows and EVT_FRAME are checked against
the 1..512 bytes of 20_memory.md R70, and the decoded buffer of a descriptor row may have any length that its operand
layout can write. DESIGN CHOICE, log entry 17, unsafe: the other operands of an inner row are free within its checks. -/
def Instr.checks : Instr → List (Bool × Problem)
  | .rxByte _ => []
  | .encode s => [(fits s, .tooLong)]
  | .decodeFrame s => [(fits s, .tooLong)]
  | .enqueue s => [(fits s, .tooLong)]
  | .cacheRead _ => []
  | .cacheInvalidate _ => []
  | .csrRead _ => []
  | .csrWrite _ _ => []
  | .sessionReset => []
  | .reset => []
  | .reservedOp op => [(decide (10#4 ≤ op), .opNotReserved)]
  | .byteColon => []
  | .byteTab => []
  | .byteCr => []
  | .byteLf => []
  | .byteHexdig b => [(decide (classOf b = .hexdig), .wrongByteClass)]
  | .byteLabelOnly b => [(decide (classOf b = .labelOnly), .wrongByteClass)]
  | .byteOther b => [(decide (classOf b = .other), .wrongByteClass)]
  | .ping rest raw => frameChecks rest raw
  | .appver rest raw => frameChecks rest raw
  | .productId rest raw => frameChecks rest raw
  | .pingResponse rest raw => frameChecks rest raw
  | .restart rest raw => frameChecks rest raw
  | .get rest raw => frameChecks rest raw
  | .set rest raw => frameChecks rest raw
  | .async rest raw => frameChecks rest raw
  | .unassignedCmd c rest raw => (unassigned c, .commandAssigned) :: frameChecks rest raw
  | .descScalarNumeric _ _ _ d => [(fits d, .tooLong)]
  | .descBitFlags _ _ _ d => [(fits d, .tooLong)]
  | .descEnum _ _ _ m d => [(fits m, .tooLong), (m.all fun e => fits e.label, .tooLong), (fits d, .tooLong)]
  | .descCompositeRecord _ _ _ fs d => [(fits fs, .tooLong), (fits d, .tooLong)]
  | .descRawString _ _ _ d => [(fits d, .tooLong)]
  | .evtTextField l v =>
    [(decide (l.length ≤ 9), .labelLength), (decide (1 ≤ v.length ∧ v.length ≤ 33), .valueLength)]
  | .evtFrame f => f.checks
  | .evtError e => e.checks
  | .evtCacheChange _ _ v => v.checks
  | .errChecksumMismatch raw => (BlockError.checksumMismatch raw).checks
  | .errInvalidLabelChar _ => []
  | .errLabelTooLong => []
  | .errUnknownRegister _ _ => []
  | .errPayloadTooShort cmd nD => (BlockError.payloadTooShort cmd nD).checks

/-- The check an instruction fails, if it fails one. -/
def Instr.problem (i : Instr) : Option Problem := firstProblem i.checks

/-- An instruction is well-formed when it fails no check. -/
abbrev Instr.WellFormed (i : Instr) : Prop := i.problem = none

end Sys2Proof
end

