-- ==== Sys2Proof/Decode.lean ====
section
/-! DEFINITION. From words to instructions and back. The codes are those of spec/opcode_table.json (30_encoding.md
R106, R108, R111, R120, R121; 60_exceptions.md R320), each in its own format. The spec gives no binary layout for the
operands (91_not_in_source.md N26): the layout here is the model's own, DESIGN CHOICE, safe, log entry 1. An
instruction is its code byte and then its operands: a number takes its width in bytes, least significant first, and a
byte string or a list is preceded by its length in 4 bytes, and an operand that may be absent by a byte that is 1 where
it is given and 0 where it is not. -/

namespace Sys2Proof

open Sys2Proof.Machine

/-- Why bytes are no instruction. -/
inductive DecodeError where
  /-- The bytes end before the instruction does. -/
  | truncated
  /-- Bits 7:4 of an operation code byte, an event tag or an error code are not 0 (these codes have 4 bits). -/
  | codeTooWide
  /-- A command above 0x0F: it does not travel in one hex digit (30_encoding.md R108). -/
  | badCommand
  /-- An ill-formed descriptor (30_encoding.md R111). -/
  | badDescriptor (p : DescProblem)
  /-- An event tag outside 1..4 (30_encoding.md R121). -/
  | badEventTag
  /-- A reserved error code (60_exceptions.md R320). -/
  | badErrorCode
  /-- A reason set above 7 (43_register_decode.md R234). -/
  | badReasons
  /-- A value tag, sign or presence byte with no meaning in the model's own layout (log entry 1). -/
  | badTag
  /-- A flag set with bit 31 set (00_scope.md R18). -/
  | badFlagSet
  /-- A composite field whose width byte is not 1, 2 or 4 (00_scope.md R18). -/
  | badFieldWidth
  /-- The instruction the bytes spell out is ill-formed. -/
  | illFormed (p : Problem)
deriving DecidableEq, Repr

/-- What a reader answers: a value and the bytes after it, or why there is none. -/
abbrev Read (α : Type) := Except DecodeError (α × Bytes)

/-- Reads on after a reader. -/
def andThen {α β : Type} (r : Read α) (f : α → Bytes → Read β) : Read β :=
  match r with
  | .ok (a, bs) => f a bs
  | .error e => .error e

/-- One byte. -/
def readByte : Bytes → Read Byte
  | [] => .error .truncated
  | b :: bs => .ok (b, bs)

/-- A byte string of a given length. -/
def readBytes (n : Nat) (bs : Bytes) : Read Bytes :=
  if n ≤ bs.length then .ok (bs.take n, bs.drop n) else .error .truncated

/-- A number of `n` bytes, least significant first. -/
def readNat (n : Nat) (bs : Bytes) : Read Nat :=
  andThen (readBytes n bs) fun s bs => .ok (leNat s, bs)

/-- A byte string after its length. -/
def readString (bs : Bytes) : Read Bytes := andThen (readNat 4 bs) readBytes

/-- `n` items. -/
def readItems {α : Type} (item : Bytes → Read α) : Nat → Bytes → Read (List α)
  | 0, bs => .ok ([], bs)
  | n + 1, bs => andThen (item bs) fun a bs => andThen (readItems item n bs) fun as bs => .ok (a :: as, bs)

/-- A list after its length. -/
def readList {α : Type} (item : Bytes → Read α) (bs : Bytes) : Read (List α) :=
  andThen (readNat 4 bs) (readItems item)

/-- A register id. -/
def readId (bs : Bytes) : Read RegId := andThen (readNat 2 bs) fun n bs => .ok (BitVec.ofNat 16 n, bs)

/-- A 32-bit number. -/
def readWord (bs : Bytes) : Read (BitVec 32) := andThen (readNat 4 bs) fun n bs => .ok (BitVec.ofNat 32 n, bs)

/-- An item that may be absent: a byte 0, or a byte 1 and the item. -/
def readOption {α : Type} (item : Bytes → Read α) (bs : Bytes) : Read (Option α) :=
  andThen (readByte bs) fun t bs =>
    if t = 0 then .ok (none, bs)
    else if t = 1 then andThen (item bs) fun a bs => .ok (some a, bs)
    else .error .badTag

/-- One pair of an Enum map. -/
def readEnumEntry (bs : Bytes) : Read EnumEntry :=
  andThen (readWord bs) fun r bs => andThen (readString bs) fun l bs => .ok (⟨r, l⟩, bs)

/-- A width byte of a descriptor's field list, as a number. -/
def readCount (bs : Bytes) : Read Nat := readNat 1 bs

/-- One field of a composite value: its width and its value. -/
def readField (bs : Bytes) : Read (Width × Nat) :=
  andThen (readNat 1 bs) fun n bs =>
    match widthOf n with
    | some w => andThen (readNat 4 bs) fun v bs => .ok ((w, v), bs)
    | none => .error .badFieldWidth

/-- A register value: a tag byte and its contents. A number is a sign byte and 16 bytes of magnitude. -/
def readValue (bs : Bytes) : Read RegValue :=
  andThen (readByte bs) fun t bs =>
    if t = 0 then
      andThen (readByte bs) fun sg bs => andThen (readNat 16 bs) fun m bs =>
        if sg = 0 then .ok (.number m, bs)
        else if sg = 1 then .ok (.number (-(m : Int)), bs)
        else .error .badTag
    else if t = 1 then andThen (readString bs) fun s bs => .ok (.str (.bytes s), bs)
    else if t = 2 then
      andThen (readNat 4 bs) fun m bs =>
        if m < 2147483648 then .ok (.str (.flagSet (BitVec.ofNat 31 m)), bs) else .error .badFlagSet
    else if t = 3 then andThen (readString bs) fun s bs => .ok (.str (.enumLabel s), bs)
    else if t = 4 then andThen (readList readField bs) fun fs bs => .ok (.composite fs, bs)
    else .error .badTag

/-- The contents of a Frame event. -/
def readFrameEvent (bs : Bytes) : Read FrameEvent :=
  andThen (readString bs) fun d bs => andThen (readOption readId bs) fun id bs =>
    andThen (readOption readByte bs) fun fl bs => andThen (readString bs) fun resp bs =>
      andThen (readString bs) fun raw bs => .ok (⟨d, id, fl, resp, raw⟩, bs)

/-- An error kind: its code (60_exceptions.md R320) and its info. -/
def readError (bs : Bytes) : Read BlockError :=
  andThen (readByte bs) fun c bs =>
    if c = 1 then andThen (readString bs) fun raw bs => .ok (.checksumMismatch raw, bs)
    else if c = 2 then andThen (readByte bs) fun b bs => .ok (.invalidLabelChar b, bs)
    else if c = 3 then .ok (.labelTooLong, bs)
    else if c = 4 then
      andThen (readId bs) fun id bs => andThen (readNat 1 bs) fun r bs =>
        if r < 8 then .ok (.unknownRegister id (BitVec.ofNat 3 r), bs) else .error .badReasons
    else if c = 5 then
      andThen (readByte bs) fun cmd bs => andThen (readNat 4 bs) fun n bs => .ok (.payloadTooShort cmd n, bs)
    else if c.extractLsb' 4 4 = 0#4 then .error .badErrorCode
    else .error .codeTooWide

/-- A host operation: the op code of 30_encoding.md R120 and its operands. -/
def readHostOp (bs : Bytes) : Read Instr :=
  andThen (readByte bs) fun op bs =>
    if op = 0 then andThen (readByte bs) fun b bs => .ok (.rxByte b, bs)
    else if op = 1 then andThen (readString bs) fun s bs => .ok (.encode s, bs)
    else if op = 2 then andThen (readString bs) fun s bs => .ok (.decodeFrame s, bs)
    else if op = 3 then andThen (readString bs) fun s bs => .ok (.enqueue s, bs)
    else if op = 4 then andThen (readId bs) fun id bs => .ok (.cacheRead id, bs)
    else if op = 5 then andThen (readId bs) fun id bs => .ok (.cacheInvalidate id, bs)
    else if op = 6 then andThen (readByte bs) fun a bs => .ok (.csrRead a, bs)
    else if op = 7 then
      andThen (readByte bs) fun a bs => andThen (readWord bs) fun v bs => .ok (.csrWrite a v, bs)
    else if op = 8 then .ok (.sessionReset, bs)
    else if op = 9 then .ok (.reset, bs)
    else if op.extractLsb' 4 4 = 0#4 then .ok (.reservedOp (op.setWidth 4), bs)
    else .error .codeTooWide

/-- A received byte, by its class (30_encoding.md R106). -/
def readByteClass (bs : Bytes) : Read Instr :=
  andThen (readByte bs) fun b bs =>
    match classOf b with
    | .colon => .ok (.byteColon, bs)
    | .tab => .ok (.byteTab, bs)
    | .cr => .ok (.byteCr, bs)
    | .lf => .ok (.byteLf, bs)
    | .hexdig => .ok (.byteHexdig b, bs)
    | .labelOnly => .ok (.byteLabelOnly b, bs)
    | .other => .ok (.byteOther b, bs)

/-- The frame instruction of a command (30_encoding.md R108). -/
def frameInstr (cmd : Byte) (rest raw : Bytes) : Instr :=
  if cmd = cmdPing then .ping rest raw
  else if cmd = cmdAppver then .appver rest raw
  else if cmd = cmdProductId then .productId rest raw
  else if cmd = cmdPingResponse then .pingResponse rest raw
  else if cmd = cmdRestart then .restart rest raw
  else if cmd = cmdGet then .get rest raw
  else if cmd = cmdSet then .set rest raw
  else if cmd = cmdAsync then .async rest raw
  else .unassignedCmd (cmd.setWidth 4) rest raw

/-- A decoded frame: D[0], then the bytes after it, then the raw digits. -/
def readFrame (bs : Bytes) : Read Instr :=
  andThen (readByte bs) fun cmd bs =>
    if cmd.extractLsb' 4 4 = 0#4 then
      andThen (readString bs) fun rest bs => andThen (readString bs) fun raw bs => .ok (frameInstr cmd rest raw, bs)
    else .error .badCommand

/-- The descriptor instruction of a checked descriptor. -/
def descriptorInstr (x : Descriptor) (d : Bytes) : Instr :=
  match x.body.kind with
  | .scalarNumeric => .descScalarNumeric x.id x.body.width x.body.scale d
  | .bitFlags => .descBitFlags x.id x.body.width x.body.scale d
  | .enum m => .descEnum x.id x.body.width x.body.scale m d
  | .compositeRecord fs => .descCompositeRecord x.id x.body.width x.body.scale fs d
  | .rawString => .descRawString x.id x.body.width x.body.scale d

/-- A descriptor and the decoded buffer it is applied to (30_encoding.md R111): the kind code, the id, the width, the
scale, the map and the fields, each after a byte that says whether it is given, then D. -/
def readDescriptor (bs : Bytes) : Read Instr :=
  andThen (readNat 1 bs) fun kind bs => andThen (readId bs) fun id bs => andThen (readNat 1 bs) fun w bs =>
    andThen (readWord bs) fun sc bs => andThen (readOption (readList readEnumEntry) bs) fun m bs =>
      andThen (readOption (readList readCount) bs) fun fs bs => andThen (readString bs) fun d bs =>
        match checkDescriptor ⟨id, kind, w, sc, m, fs⟩ with
        | .ok x => .ok (descriptorInstr x d, bs)
        | .error p => .error (.badDescriptor p)

/-- An event: its tag and its contents (30_encoding.md R121). -/
def readEvent (bs : Bytes) : Read Instr :=
  andThen (readByte bs) fun t bs =>
    if t = 1 then andThen (readString bs) fun l bs => andThen (readString bs) fun v bs => .ok (.evtTextField l v, bs)
    else if t = 2 then andThen (readFrameEvent bs) fun f bs => .ok (.evtFrame f, bs)
    else if t = 3 then andThen (readError bs) fun e bs => .ok (.evtError e, bs)
    else if t = 4 then
      andThen (readId bs) fun id bs => andThen (readWord bs) fun sc bs =>
        andThen (readValue bs) fun v bs => .ok (.evtCacheChange id sc v, bs)
    else if t.extractLsb' 4 4 = 0#4 then .error .badEventTag
    else .error .codeTooWide

/-- The error instruction of an error kind. -/
def errorInstr : BlockError → Instr
  | .checksumMismatch raw => .errChecksumMismatch raw
  | .invalidLabelChar b => .errInvalidLabelChar b
  | .labelTooLong => .errLabelTooLong
  | .unknownRegister id r => .errUnknownRegister id r
  | .payloadTooShort cmd n => .errPayloadTooShort cmd n

/-- The instruction that bytes of a format begin with, before the check of its operands. -/
def readInstr (f : Format) (bs : Bytes) : Read Instr :=
  match f with
  | .hostOp => readHostOp bs
  | .rxByteClass => readByteClass bs
  | .vehexFrame => readFrame bs
  | .descriptorKind => readDescriptor bs
  | .eventTag => readEvent bs
  | .errorCode => andThen (readError bs) fun e bs => .ok (errorInstr e, bs)

/-- The well-formed instruction that bytes of a format begin with, and the bytes after it; or why there is none. -/
def decode (f : Format) (bs : Bytes) : Read Instr :=
  andThen (readInstr f bs) fun i bs =>
    match i.problem with
    | none => .ok (i, bs)
    | some p => .error (.illFormed p)

/-- The bytes of a string operand. -/
def putString (s : Bytes) : Bytes := leBytes 4 s.length ++ s

/-- The bytes of a list operand. -/
def putList {α : Type} (item : α → Bytes) (as : List α) : Bytes := leBytes 4 as.length ++ as.flatMap item

/-- The bytes of a register id. -/
def putId (id : RegId) : Bytes := leBytes 2 id.toNat

/-- The bytes of a 32-bit number. -/
def putWord (v : BitVec 32) : Bytes := leBytes 4 v.toNat

/-- The bytes of an item that may be absent. -/
def putOption {α : Type} (item : α → Bytes) : Option α → Bytes
  | none => [0]
  | some a => 1 :: item a

/-- The bytes of one pair of an Enum map. -/
def putEnumEntry (e : EnumEntry) : Bytes := putWord e.raw ++ putString e.label

/-- The byte of a width. -/
def putWidth (w : Width) : Bytes := leBytes 1 w.bytes

/-- The bytes of one field of a composite value. -/
def putField (f : Width × Nat) : Bytes := putWidth f.1 ++ leBytes 4 f.2

/-- The bytes of a register value. -/
def putValue : RegValue → Bytes
  | .number k => 0 :: (if k < 0 then 1 else 0) :: leBytes 16 k.natAbs
  | .str (.bytes s) => 1 :: putString s
  | .str (.flagSet m) => 2 :: leBytes 4 m.toNat
  | .str (.enumLabel s) => 3 :: putString s
  | .composite fs => 4 :: putList putField fs

/-- The bytes of a Frame event's contents. -/
def putFrameEvent (f : FrameEvent) : Bytes :=
  putString f.d ++ putOption putId f.id ++ putOption (fun b => [b]) f.flags ++ putString f.resp ++ putString f.raw

/-- The bytes of an error kind: its code (60_exceptions.md R320) and its info. -/
def putError : BlockError → Bytes
  | .checksumMismatch raw => 1 :: putString raw
  | .invalidLabelChar b => [2, b]
  | .labelTooLong => [3]
  | .unknownRegister id r => 4 :: putId id ++ leBytes 1 r.toNat
  | .payloadTooShort cmd n => 5 :: cmd :: leBytes 4 n

/-- The bytes of a decoded frame. -/
def putFrame (cmd : Byte) (rest raw : Bytes) : Bytes := cmd :: putString rest ++ putString raw

/-- The bytes of a descriptor and the buffer it is applied to. -/
def putDescriptor (id : RegId) (w : Width) (sc : Scale) (k : DescKind) (d : Bytes) : Bytes :=
  leBytes 1 (kindCode k) ++ putId id ++ putWidth w ++ putWord sc ++ putOption (putList putEnumEntry) (kindMap k) ++
    putOption (putList putWidth) (kindFields k) ++ putString d

/-- The bytes of an instruction, in its own format. -/
def encode : Instr → Bytes
  | .rxByte b => [0, b]
  | .encode s => 1 :: putString s
  | .decodeFrame s => 2 :: putString s
  | .enqueue s => 3 :: putString s
  | .cacheRead id => 4 :: putId id
  | .cacheInvalidate id => 5 :: putId id
  | .csrRead a => [6, a]
  | .csrWrite a v => 7 :: a :: putWord v
  | .sessionReset => [8]
  | .reset => [9]
  | .reservedOp op => [op.setWidth 8]
  | .byteColon => [chColon]
  | .byteTab => [chTab]
  | .byteCr => [chCr]
  | .byteLf => [chLf]
  | .byteHexdig b => [b]
  | .byteLabelOnly b => [b]
  | .byteOther b => [b]
  | .ping rest raw => putFrame cmdPing rest raw
  | .appver rest raw => putFrame cmdAppver rest raw
  | .productId rest raw => putFrame cmdProductId rest raw
  | .pingResponse rest raw => putFrame cmdPingResponse rest raw
  | .restart rest raw => putFrame cmdRestart rest raw
  | .get rest raw => putFrame cmdGet rest raw
  | .set rest raw => putFrame cmdSet rest raw
  | .async rest raw => putFrame cmdAsync rest raw
  | .unassignedCmd c rest raw => putFrame (c.setWidth 8) rest raw
  | .descScalarNumeric id w sc d => putDescriptor id w sc .scalarNumeric d
  | .descBitFlags id w sc d => putDescriptor id w sc .bitFlags d
  | .descEnum id w sc m d => putDescriptor id w sc (.enum m) d
  | .descCompositeRecord id w sc fs d => putDescriptor id w sc (.compositeRecord fs) d
  | .descRawString id w sc d => putDescriptor id w sc .rawString d
  | .evtTextField l v => 1 :: putString l ++ putString v
  | .evtFrame f => 2 :: putFrameEvent f
  | .evtError e => 3 :: putError e
  | .evtCacheChange id sc v => 4 :: putId id ++ putWord sc ++ putValue v
  | .errChecksumMismatch raw => putError (.checksumMismatch raw)
  | .errInvalidLabelChar b => putError (.invalidLabelChar b)
  | .errLabelTooLong => putError .labelTooLong
  | .errUnknownRegister id r => putError (.unknownRegister id r)
  | .errPayloadTooShort cmd n => putError (.payloadTooShort cmd n)

/-- The format a bare word of spec/opcode_table.json is read in. The table's formats share their words (0x01 is
ENCODE, PING, DESC_BitFlags, EVT_TEXTFIELD and ERR_ChecksumMismatch), and a bare word names no format, so the formats
are tried in the table's order: a word of at most 4 bits is a host operation's op code, every other word a received
byte. DESIGN CHOICE, safe, log entry 2. -/
def tableFormat (w : Nat) : Format := if w < 16 then .hostOp else .rxByteClass

/-- A bare word of the table as the model lays it out: the bytes of its bits, the first at bits 7:0, then operand
bytes of zeros. No instruction whose lengths are all zero is longer than 64 bytes. -/
def tableBytes (nbits w : Nat) : Bytes := leBytes ((nbits + 7) / 8) w ++ List.replicate 64 0

/-- The instruction the decoder reads from a bare word of the table. -/
def decodeTableWord (nbits w : Nat) : Option Instr :=
  match decode (tableFormat w) (tableBytes nbits w) with
  | .ok (i, _) => some i
  | .error _ => none

end Sys2Proof
end

