-- ==== Sys2Proof/Machine/State.lean ====
section
/-! DEFINITION. The state of one instance (spec 10_state.md R30) as plain data, the outcomes a step can have, and the
state after reset (70_reset_and_hazards.md R350). -/

namespace Sys2Proof.Machine

/-- The reasons the machine could stop with a fault: none. No input can trap the block (30_encoding.md R122) and no
trap entry exists (60_exceptions.md R327); the block's exceptions are Error events of a step that goes on
(00_scope.md R16, `State.raise`). Safe. -/
inductive Fault where
deriving DecidableEq, Repr

/-- The reasons the model has no meaning for what it is given. -/
inductive Refusal where
  /-- An instruction with no meaning yet. No arm of `exec` answers it. Safe. -/
  | notModelled (mnemonic : String)
  /-- `step` took an operation word that is no encoding of an instruction. The layout of the words is the model's own
  (log entry 11), so the hardware has no such input. Safe. -/
  | undecodable (e : DecodeError)
deriving DecidableEq, Repr

/-- The parser states (10_state.md R33). RecordComplete is never held between two steps and is left out, as R34
allows; codes 6 and 7 are reserved. -/
inductive ParserState where
  | idle
  | readingLabel
  | sawTab
  | readingValue
  | readingHexDigits
deriving DecidableEq, Repr

/-- The record parser: PS, LBUF, VBUF, HBUF (10_state.md R33, R35-R37). -/
structure Parser where
  ps : ParserState
  lbuf : Bytes
  vbuf : Bytes
  hbuf : Bytes
deriving DecidableEq, Repr

/-- A cache entry (10_state.md R39). -/
structure CacheEntry where
  scale : Scale
  value : RegValue
  valid : Bool
deriving DecidableEq, Repr

/-- The register cache: (id, entry) pairs with strictly rising ids, at most one per id (10_state.md R39, log entry 10). -/
abbrev Cache := List (RegId × CacheEntry)

/-- What DECODE_FRAME answers; `nD` is the length of `d` (40_frame_codec.md R151). -/
inductive DecodeResult where
  | ok (d : Bytes)
  | fail
  | incomplete
deriving DecidableEq, Repr

/-- What an operation hands back to the host (45_tx_and_control.md R292). -/
inductive HostResult where
  | ok
  | refused
  | bytes (s : Bytes)
  | decoded (r : DecodeResult)
  | entry (e : Option CacheEntry)
  | word (v : Word)
deriving DecidableEq, Repr

/-- One append to an output stream: to EVT, to ECHO, or to TX (00_scope.md R16, 10_state.md R46). -/
inductive Output where
  | evt (e : Event)
  | echo (b : Byte)
  | tx (s : Bytes)
deriving DecidableEq, Repr

/-- One operation the host has issued: the format its word stands in, and the word's bytes (log entry 1). -/
structure Request where
  format : Format
  bytes : Bytes
deriving DecidableEq, Repr

/-- The state of one instance. -/
structure State where
  /-- PS, LBUF, VBUF, HBUF (10_state.md R33, R35-R37). -/
  parser : Parser
  /-- CACHE (10_state.md R39). -/
  cache : Cache
  /-- TXQ, oldest entry first (10_state.md R40). -/
  txq : List Bytes
  /-- BCNT (10_state.md R41). -/
  bcnt : BitVec 8
  /-- CTRL.ECHO_EN (10_state.md R42). -/
  echoEn : Bool
  /-- CTRL.HEX_STRICT (10_state.md R42). -/
  hexStrict : Bool
  /-- BTHR[7:0] (10_state.md R43). -/
  bthr : BitVec 8
  /-- The appends to EVT, ECHO and TX, oldest first, in one merged trace (10_state.md R46, 20_memory.md R82; log entry 7). -/
  trace : List Output
  /-- The model's own: what the last operation handed to the host (45_tx_and_control.md R292; log entry 8). -/
  result : Option HostResult
  /-- The model's own: the operations the host has issued and the block has not yet taken, oldest first (log entry 1). -/
  pending : List Request
  /-- The configuration the instance was built with (10_state.md R45; log entry 5). -/
  cfg : Cfg
deriving DecidableEq, Repr

/-- PS = Idle and empty buffers (70_reset_and_hazards.md R350). -/
def Parser.start : Parser := ⟨.idle, [], [], []⟩

/-- The state right after RESET of an instance built with a configuration (70_reset_and_hazards.md R350). -/
def State.ofCfg (c : Cfg) : State where
  parser := Parser.start
  cache := []
  txq := []
  bcnt := 0
  echoEn := false
  hexStrict := false
  bthr := Config.bthrReset
  trace := []
  result := none
  pending := []
  cfg := c

/-- The machine right after reset (70_reset_and_hazards.md R350), with the configuration of 00_scope.md R10. -/
def State.reset : State := State.ofCfg Config.cfg

end Sys2Proof.Machine
end

