-- ==== Sys2Proof/Machine/Codec.lean ====
section
/-! DEFINITION. The frame codec (spec 40_frame_codec.md): checksum, Encode, HexDecode, DECODE_FRAME and the map from a
Frame record to bytes. All are pure functions (R152). -/

namespace Sys2Proof.Machine

/-- The sum of the bytes of a string, unbounded (00_scope.md R12). -/
def sumBytes (s : Bytes) : Nat := (s.map BitVec.toNat).sum

/-- `CS(s) = (0x55 - sum) mod 256` (40_frame_codec.md R143). -/
def checksum (s : Bytes) : Byte := 0x55#8 - BitVec.ofNat 8 (sumBytes s)

/-- A decoded string with its checksum byte is valid (40_frame_codec.md R142). -/
def sumValid (t : Bytes) : Bool := sumBytes t % 256 = 0x55

/-- `Encode(s)` (40_frame_codec.md R140, R141): the empty string unless 1 <= |s| <= 512. -/
def encodeFrame (s : Bytes) : Bytes :=
  match s with
  | [] => []
  | c :: rest =>
    if Config.bufCap < s.length then []
    else chColon :: hexu (c.extractLsb' 0 4) :: (rest.flatMap hex2 ++ hex2 (checksum s) ++ [chLf])

/-- The nibble of a digit, 0 for a byte that is none (40_frame_codec.md R144). -/
def nib (c : Byte) : BitVec 4 := (hexval c).getD 0

/-- The bytes of a digit string of even length, two digits a byte, high nibble first (40_frame_codec.md R144). -/
def pairBytes : Bytes → Bytes
  | hi :: lo :: rest => (nib hi ++ nib lo : BitVec 8) :: pairBytes rest
  | [_] => []
  | [] => []

/-- A digit string without the digit an even count leaves over, where the policy allows one (40_frame_codec.md R145). -/
def oddDigits (policy : OddDigitPolicy) (h : Bytes) : Option Bytes :=
  if h.length % 2 = 0 then
    match policy with
    | .reject => none
    | .ignoreLast => some h.dropLast
  else some h

/-- The decoded string, checksum byte included, of an odd digit string: the command digit alone, then pairs
(40_frame_codec.md R144). -/
def digitBytes : Bytes → Bytes
  | [] => []
  | c :: ds => (nib c).setWidth 8 :: pairBytes ds

/-- `HexDecode(H, strict)` (40_frame_codec.md R144): the decoded buffer without its checksum byte, or none for Fail.
DESIGN CHOICE, log entry 15, unsafe: R147 and 20_memory.md R70 bound the buffer at 512 bytes, which they take from
HEX_CAP = 1025, and 70_reset_and_hazards.md R353 lets HEX_CAP be larger. The model follows R144, which has no bound on
the digit count, so for such a HEX_CAP the buffer may have more than 512 bytes. -/
def hexDecode (policy : OddDigitPolicy) (strict : Bool) (h : Bytes) : Option Bytes :=
  match oddDigits policy h with
  | none => none
  | some ds =>
    if ds.length < 3 then none
    else if strict && !ds.all ishex then none
    else if sumValid (digitBytes ds) then some (digitBytes ds).dropLast
    else none

/-- The loop of DECODE_FRAME (40_frame_codec.md R151): `acc` is the local accumulator, none before the first `:`. -/
def decodeLoop (c : Cfg) (strict : Bool) : Option Bytes → Bytes → DecodeResult
  | _, [] => .incomplete
  | acc, b :: bs =>
    if b = chColon then decodeLoop c strict (some []) bs
    else
      match acc with
      | none => decodeLoop c strict none bs
      | some ds =>
        if b = chLf then
          match hexDecode c.oddDigitPolicy strict ds with
          | some d => .ok d
          | none => .fail
        else if ds.length < c.hexCap then decodeLoop c strict (some (ds ++ [b])) bs
        else decodeLoop c strict (some ds) bs

/-- DECODE_FRAME over a whole string (40_frame_codec.md R151). -/
def decodeString (c : Cfg) (strict : Bool) (s : Bytes) : DecodeResult := decodeLoop c strict none s

/-- The Frame record of the source's data model (00_scope.md R21). -/
structure Frame where
  command : Byte
  registerId : RegId
  flags : Byte
  payload : Bytes
deriving DecidableEq, Repr

/-- A Frame is valid when its command has one digit and its payload fits (40_frame_codec.md R149). -/
def frameValid (f : Frame) : Bool := f.command ≤ 0x0F#8 && f.payload.length ≤ Config.maxPayload

/-- `serialize(F)` (40_frame_codec.md R149). -/
def serialize (f : Frame) : Bytes := f.command :: (idBytes f.registerId ++ f.flags :: f.payload)

/-- The inverse of `serialize` on a decoded buffer of at least 4 bytes (40_frame_codec.md R149). -/
def deserialize (d : Bytes) : Option Frame :=
  if 4 ≤ d.length then some ⟨frameCmd d, frameId d, frameFlags d, valueField d⟩ else none

end Sys2Proof.Machine
end

