-- ==== Sys2Proof/Machine/Flags.lean ====
section
/-! DEFINITION. The flag-like values of the block (spec 10_state.md R47): the flags byte of a frame
(30_encoding.md R110) and the fields of the control register CTRL (10_state.md R42). -/

namespace Sys2Proof.Machine

/-- UNKNOWN_ID: bit 0 of the flags byte (30_encoding.md R110). -/
def flagUnknownId (fl : Byte) : Bool := fl.getLsbD 0

/-- NOT_SUPPORTED: bit 1 of the flags byte (30_encoding.md R110). -/
def flagNotSupported (fl : Byte) : Bool := fl.getLsbD 1

/-- PARAM_ERROR: bit 2 of the flags byte (30_encoding.md R110). -/
def flagParamError (fl : Byte) : Bool := fl.getLsbD 2

/-- `reasons = fl AND 0x07`, the three flag bits; bits 7:3 are not reported (43_register_decode.md R234). -/
def reasons (fl : Byte) : BitVec 3 := fl.setWidth 3

/-- The value of CTRL: ECHO_EN in bit 0, HEX_STRICT in bit 1, the rest 0 (10_state.md R42). -/
def ctrlWord (echoEn hexStrict : Bool) : Word := 0#30 ++ BitVec.ofBool hexStrict ++ BitVec.ofBool echoEn

/-- ECHO_EN in a value written to CTRL (45_tx_and_control.md R296). -/
def ctrlEchoEn (v : Word) : Bool := v.getLsbD 0

/-- HEX_STRICT in a value written to CTRL (45_tx_and_control.md R296). -/
def ctrlHexStrict (v : Word) : Bool := v.getLsbD 1

/-- The value of BTHR: the threshold in bits 7:0, the rest 0 (10_state.md R43). -/
def bthrWord (t : BitVec 8) : Word := t.setWidth 32

/-- The threshold in a value written to BTHR (45_tx_and_control.md R296). -/
def bthrField (v : Word) : BitVec 8 := v.setWidth 8

end Sys2Proof.Machine
end

