-- ==== Sys2Proof/Machine/Ops.lean ====
section
/-! DEFINITION. The named operations over the state: the output streams (spec 00_scope.md R16, 10_state.md R46),
raising an error, which is the block's form of an exception (00_scope.md R16, 60_exceptions.md R320, R323), the
register cache (44_register_cache.md R261, 45_tx_and_control.md R298), and the two resets (70_reset_and_hazards.md
R350, R351). -/

namespace Sys2Proof.Machine

/-- The outcome of one step of this machine. -/
abbrev Result := Host.Outcome State Fault Refusal

/-! ### Output streams -/

/-- Appends one output (00_scope.md R16). -/
def State.out (s : State) (o : Output) : State := { s with trace := s.trace ++ [o] }

/-- `emit E` (00_scope.md R16). -/
def State.emit (s : State) (e : Event) : State := s.out (.evt e)

/-- `echo b` (00_scope.md R16). -/
def State.echoByte (s : State) (b : Byte) : State := s.out (.echo b)

/-- `send s` (00_scope.md R16). -/
def State.send (s : State) (bs : Bytes) : State := s.out (.tx bs)

/-- The event an output appends to EVT, if it appends one. -/
def outputEvent : Output → Option Event
  | .evt e => some e
  | .echo _ => none
  | .tx _ => none

/-- The byte an output appends to ECHO, if it appends one. -/
def outputEcho : Output → Option Byte
  | .echo b => some b
  | .evt _ => none
  | .tx _ => none

/-- The bytes an output appends to TX. -/
def outputTx : Output → Bytes
  | .tx bs => bs
  | .evt _ => []
  | .echo _ => []

/-- The stream EVT (10_state.md R46). -/
def State.evt (s : State) : List Event := s.trace.filterMap outputEvent

/-- The stream ECHO (10_state.md R46). -/
def State.echo (s : State) : Bytes := s.trace.filterMap outputEcho

/-- The stream TX (10_state.md R46). -/
def State.tx (s : State) : Bytes := s.trace.flatMap outputTx

/-- What an operation hands to the host; it is not an event (45_tx_and_control.md R292). -/
def State.withResult (s : State) (r : Option HostResult) : State := { s with result := r }

/-! ### Taking an exception -/

/-- `raise K(info)`: the Error event is appended and the step goes on (00_scope.md R16). No state is saved, no mode
switched, control goes nowhere (60_exceptions.md R327). -/
def State.raise (s : State) (e : BlockError) : State := s.emit (.error e)

/-- Taking the exception of an error kind as a whole: the error is raised, and the parser is in Idle with empty
buffers, as after every error (60_exceptions.md R320, R323). There is no return from it (R328). -/
def State.takeError (s : State) (e : BlockError) : State := { s with parser := Parser.start }.raise e

/-! ### The register cache -/

/-- `CACHE[id]` (00_scope.md R14): the entry of an id, or none for absent. -/
def cacheFind (id : RegId) : Cache → Option CacheEntry
  | [] => none
  | (k, e) :: c => if k = id then some e else cacheFind id c

/-- `CACHE[id] <- e`: the entry replaces the one of the id or takes its place in the order of ids. -/
def cachePut (id : RegId) (e : CacheEntry) : Cache → Cache
  | [] => [(id, e)]
  | (k, x) :: c =>
    if id = k then (id, e) :: c
    else if id < k then (id, e) :: (k, x) :: c
    else (k, x) :: cachePut id e c

/-- The ids of a cache rise strictly: the one form of a cache as data (log entry 10). -/
def cacheWf : Cache → Bool
  | [] => true
  | [_] => true
  | (k, _) :: (k', x) :: c => decide (k < k') && cacheWf ((k', x) :: c)

/-- Does a set write and notify (44_register_cache.md R261)? -/
def setChanges (old : Option CacheEntry) (sc : Scale) (v : RegValue) : Bool :=
  match old with
  | none => true
  | some e => !e.valid || e.scale ≠ sc || e.value ≠ v

/-- `SetRegister(id, s, v)`: the one operation that writes a value into the cache (44_register_cache.md R260-R262). -/
def State.setRegister (s : State) (id : RegId) (sc : Scale) (v : RegValue) : State :=
  if setChanges (cacheFind id s.cache) sc v then
    { s with cache := cachePut id ⟨sc, v, true⟩ s.cache }.emit (.cacheChange id sc v)
  else s

/-- An absent id is a no-op; an entry keeps its scale and value and loses its valid bit (45_tx_and_control.md R298). -/
def State.invalidate (s : State) (id : RegId) : State :=
  match cacheFind id s.cache with
  | none => s
  | some e => { s with cache := cachePut id { e with valid := false } s.cache }

/-! ### The resets -/

/-- The state RESET leaves: every element at its reset value; the output streams and the configuration stay
(70_reset_and_hazards.md R350), and so do the operations the host has issued after it. -/
def State.resetAll (s : State) : State :=
  { s with
    parser := Parser.start, cache := [], txq := [], bcnt := 0, echoEn := false, hexStrict := false,
    bthr := Config.bthrReset }

/-- The state SESSION_RESET leaves: the parser state, the cache and the burst count are cleared; the queue and the
control registers stay (70_reset_and_hazards.md R351). -/
def State.resetSession (s : State) : State :=
  { s with parser := Parser.start, cache := [], bcnt := 0 }

end Sys2Proof.Machine
end

