-- ==== Sys2Proof/Machine/RegDecode.lean ====
section
/-! DEFINITION. The register decode engine (spec 43_register_decode.md): the lookup in REG_TABLE and the five decode
strategies. A strategy answers none for Short. -/

namespace Sys2Proof.Machine

/-- The descriptor of an id in a table, by exact match (43_register_decode.md R233). -/
def regFind (id : RegId) : List Descriptor → Option Descriptor
  | [] => none
  | x :: xs => if x.id = id then some x else regFind id xs

/-- The raw value of a descriptor's width at the start of the value field, none if the field is shorter
(43_register_decode.md R236). -/
def rawRead (d : Bytes) (w : Width) : Option Nat :=
  if d.length < 4 + w.bytes then none else some (memRead d 4 w.bytes)

/-- `DecScalar` (43_register_decode.md R236): unsigned, never multiplied by the scale. -/
def decScalar (d : Bytes) (w : Width) : Option RegValue :=
  match rawRead d w with
  | none => none
  | some raw => some (.number raw)

/-- `DecFlags` (43_register_decode.md R237): bit positions 0..30; bit 31 is no part of the set (log entry 12). -/
def decFlags (d : Bytes) (w : Width) : Option RegValue :=
  match rawRead d w with
  | none => none
  | some raw => some (.str (.flagSet (BitVec.ofNat 31 raw)))

/-- The label of a raw value in an Enum map (43_register_decode.md R238). -/
def enumFind (raw : Nat) : List EnumEntry → Option Bytes
  | [] => none
  | e :: es => if e.raw.toNat = raw then some e.label else enumFind raw es

/-- `DecEnum` (43_register_decode.md R238): the label, or the number where the value is not mapped. -/
def decEnum (d : Bytes) (w : Width) (m : List EnumEntry) : Option RegValue :=
  match rawRead d w with
  | none => none
  | some raw =>
    match enumFind raw m with
    | some l => some (.str (.enumLabel l))
    | none => some (.number raw)

/-- The fields of a composite record from a cursor on, none for Short (43_register_decode.md R239). -/
def decFields (d : Bytes) : Nat → List Width → Option (List (Width × Nat))
  | _, [] => some []
  | cur, w :: ws =>
    if d.length < cur + w.bytes then none
    else
      match decFields d (cur + w.bytes) ws with
      | none => none
      | some fs => some ((w, memRead d cur w.bytes) :: fs)

/-- `DecComposite` (43_register_decode.md R239): the version byte first, then the listed fields. -/
def decComposite (d : Bytes) (ws : List Width) : Option RegValue :=
  match decFields d 4 (.u8 :: ws) with
  | none => none
  | some fs => some (.composite fs)

/-- `DecRawString` (43_register_decode.md R240): the value field up to the first NUL. -/
def decRawString (d : Bytes) : Option RegValue :=
  some (.str (.bytes ((valueField d).takeWhile (· ≠ 0))))

/-- The decode strategy of a descriptor on a decoded buffer (43_register_decode.md R231). -/
def decodeValue (x : DescBody) (d : Bytes) : Option RegValue :=
  match x.kind with
  | .scalarNumeric => decScalar d x.width
  | .bitFlags => decFlags d x.width
  | .enum m => decEnum d x.width m
  | .compositeRecord ws => decComposite d ws
  | .rawString => decRawString d

/-- What a strategy's answer does: PayloadTooShort for Short, else the cache set with the descriptor's scale
(43_register_decode.md R231, R242). -/
def State.applyDecoded (s : State) (id : RegId) (sc : Scale) (d : Bytes) (r : Option RegValue) : State :=
  match r with
  | none => s.raise (.payloadTooShort (frameCmd d) d.length)
  | some v => s.setRegister id sc v

/-- `RegDecode(D, nD, id, fl)` (43_register_decode.md R231-R235). -/
def State.regDecode (s : State) (d : Bytes) (id : RegId) (fl : Byte) : State :=
  if d.length < 5 then s.raise (.payloadTooShort (frameCmd d) d.length)
  else
    match regFind id s.cfg.regTable with
    | none => s.raise (.unknownRegister id (reasons fl))
    | some x => s.applyDecoded id x.body.scale d (decodeValue x.body d)

end Sys2Proof.Machine
end

