-- ==== Sys2Proof/Machine/FrameDispatch.lean ====
section
/-! DEFINITION. The hex frame dispatch (spec 42_frame_dispatch.md R210): one operation per dispatch class. -/

namespace Sys2Proof.Machine

/-- The dispatch of GET, SET and ASYNC: the header length check, the Frame event with its response skeleton, then the
register decode (42_frame_dispatch.md R210, R211, R214-R216). -/
def State.dispatchReg (s : State) (d raw : Bytes) : State :=
  if d.length < 4 then s.raise (.payloadTooShort (frameCmd d) d.length)
  else
    (s.emit (.frame
      { d := d, id := some (frameId d), flags := some (frameFlags d),
        resp := respCmd (frameCmd d) :: (idBytes (frameId d) ++ [frameFlags d]), raw := raw })).regDecode
      d (frameId d) (frameFlags d)

/-- The dispatch of PING_RESPONSE: the flags byte only where D has one, no register decode (42_frame_dispatch.md R210,
R212, R214, R216). -/
def State.dispatchPing (s : State) (d raw : Bytes) : State :=
  if d.length < 3 then s.raise (.payloadTooShort (frameCmd d) d.length)
  else
    s.emit (.frame
      { d := d, id := some (frameId d), flags := frameFlags? d,
        resp := frameCmd d :: idBytes (frameId d), raw := raw })

/-- The dispatch of every other command (42_frame_dispatch.md R210, R213, R214). -/
def State.dispatchNone (s : State) (d raw : Bytes) : State :=
  s.emit (.frame { d := d, id := none, flags := none, resp := [frameCmd d], raw := raw })

/-- `Dispatch(D, nD, raw)` (42_frame_dispatch.md R210). -/
def State.dispatch (s : State) (d raw : Bytes) : State :=
  match cmdClass (frameCmd d) with
  | .reg => s.dispatchReg d raw
  | .ping => s.dispatchPing d raw
  | .none => s.dispatchNone d raw

end Sys2Proof.Machine
end

