-- ==== Sys2Proof/Machine/Text.lean ====
section
/-! DEFINITION. What follows a TextField event: the text classifier (spec 44_register_cache.md R270-R275) and the
poll-burst counter with its transmit (45_tx_and_control.md R293, R294). -/

namespace Sys2Proof.Machine

/-- Is `b` a decimal digit (44_register_cache.md R271)? -/
def isDigit (b : Byte) : Bool := 0x30#8 ≤ b && b ≤ 0x39#8

/-- The number a digit string denotes, most significant digit first. -/
def digitsNat (v : Bytes) : Nat := v.foldl (fun n b => 10 * n + (b.toNat - 48)) 0

/-- `digit+`: one or more digits and nothing else (44_register_cache.md R271). -/
def parseDigits (v : Bytes) : Option Nat :=
  if v ≠ [] ∧ v.all isDigit = true then some (digitsNat v) else none

/-- `ParseDec(V)`: an optional minus sign and digits; anything else fails (44_register_cache.md R271). -/
def parseDec (v : Bytes) : Option Int :=
  match v with
  | [] => none
  | b :: bs =>
    if b = chMinus then (parseDigits bs).map fun n => -(n : Int)
    else (parseDigits v).map fun n => (n : Int)

/-- The entry of a label in TEXT_MAP, by exact byte match (44_register_cache.md R270, R272). -/
def textFind (label : Bytes) : List TextEntry → Option TextEntry
  | [] => none
  | e :: es => if e.label = label then some e else textFind label es

/-- The register value of a text value, if it has one (44_register_cache.md R270). -/
def textValue (p : TextParse) (value : Bytes) : Option RegValue :=
  match p with
  | .decimal => (parseDec value).map .number
  | .text => some (.str (.bytes value))

/-- `TextClassify(L, V)` (44_register_cache.md R270, R273, R274). -/
def State.textClassify (s : State) (label value : Bytes) : State :=
  match textFind label s.cfg.textMap with
  | none => s
  | some m =>
    match textValue m.parse value with
    | none => s
    | some v => s.setRegister m.id m.scale v

/-- `min(BCNT + 1, 255)` (45_tx_and_control.md R293). -/
def satInc (c : BitVec 8) : BitVec 8 := BitVec.ofNat 8 (min (c.toNat + 1) 255)

/-- The drain test of `BurstCount`: at the threshold, one queued entry is encoded onto TX and the count starts anew
(45_tx_and_control.md R293, R294). A threshold of 0 acts as 1. -/
def State.drain (s : State) : State :=
  if max s.bthr.toNat 1 ≤ s.bcnt.toNat then
    match s.txq with
    | [] => s
    | e :: q => { { s with txq := q }.send (encodeFrame e) with bcnt := 0 }
  else s

/-- `BurstCount(L)` (45_tx_and_control.md R293). -/
def State.burstCount (s : State) (label : Bytes) : State :=
  if label ∈ s.cfg.burstLabels then { s with bcnt := satInc s.bcnt }.drain else s

end Sys2Proof.Machine
end

