-- ==== Sys2Proof/Machine/RecordParser.lean ====
section
/-! DEFINITION. The record parser (spec 41_record_parser.md): one action per byte class, each over every parser state
(R172), and what one RX_BYTE step does with the parser's answer (R171). -/

namespace Sys2Proof.Machine

/-- The parser's own event of a step (41_record_parser.md R171). -/
inductive ParserEvent where
  | none
  | err (e : BlockError)
  | text (label value : Bytes)
  | hex (d raw : Bytes)
deriving DecidableEq, Repr

/-- COLON in any state (41_record_parser.md R173). -/
def parseColon (_ : Parser) : Parser × ParserEvent := (⟨.readingHexDigits, [], [], []⟩, .none)

/-- TAB (41_record_parser.md R174, R175). -/
def parseTab (p : Parser) : Parser × ParserEvent :=
  match p.ps with
  | .readingLabel => ({ p with ps := .sawTab }, .none)
  | .idle => (p, .none)
  | .sawTab => (p, .none)
  | .readingValue => (p, .none)
  | .readingHexDigits => (p, .none)

/-- The fresh line: a new record begins (41_record_parser.md R176). -/
def freshLine : Parser × ParserEvent := (⟨.readingLabel, [], [], []⟩, .none)

/-- RecordComplete, inside the step (41_record_parser.md R177, R178). -/
def completeRecord (p : Parser) : Parser × ParserEvent :=
  ({ p with ps := .readingLabel, lbuf := [], vbuf := [] }, .text p.lbuf p.vbuf)

/-- The end of a non-empty hex frame (41_record_parser.md R180). -/
def completeFrame (c : Cfg) (strict : Bool) (p : Parser) : Parser × ParserEvent :=
  ({ p with ps := .idle, hbuf := [] },
    match hexDecode c.oddDigitPolicy strict p.hbuf with
    | some d => .hex d p.hbuf
    | none => .err (.checksumMismatch p.hbuf))

/-- CR or LF (41_record_parser.md R176-R180). -/
def parseEol (c : Cfg) (strict : Bool) (p : Parser) : Parser × ParserEvent :=
  match p.ps with
  | .idle => freshLine
  | .readingLabel => freshLine
  | .sawTab => freshLine
  | .readingValue => if p.lbuf = [] then freshLine else completeRecord p
  | .readingHexDigits => if p.hbuf = [] then freshLine else completeFrame c strict p

/-- A label byte in ReadingLabel (41_record_parser.md R183). -/
def labelByte (b : Byte) (p : Parser) : Parser × ParserEvent :=
  if p.lbuf.length < Config.labelMax then ({ p with lbuf := p.lbuf ++ [b] }, .none)
  else ({ p with ps := .idle, lbuf := [] }, .err .labelTooLong)

/-- A byte of class OTHER in ReadingLabel (41_record_parser.md R182). -/
def badLabelByte (b : Byte) (p : Parser) : Parser × ParserEvent :=
  ({ p with ps := .idle, lbuf := [] }, .err (.invalidLabelChar b))

/-- The first byte of a value (41_record_parser.md R185). -/
def firstValueByte (b : Byte) (p : Parser) : Parser × ParserEvent :=
  ({ p with ps := .readingValue, vbuf := [b] }, .none)

/-- A later byte of a value; the 34th and those after it are dropped (41_record_parser.md R186). -/
def valueByte (b : Byte) (p : Parser) : Parser × ParserEvent :=
  (if p.vbuf.length < Config.valueMax then { p with vbuf := p.vbuf ++ [b] } else p, .none)

/-- A byte in hex mode: kept if it is a hex digit and there is room, else dropped (41_record_parser.md R184). -/
def hexByte (c : Cfg) (b : Byte) (p : Parser) : Parser × ParserEvent :=
  (if ishex b = true ∧ p.hbuf.length < c.hexCap then { p with hbuf := p.hbuf ++ [b] } else p, .none)

/-- A byte of class HEXDIG or LABELONLY (41_record_parser.md R172, R181, R183-R186). -/
def parseLabelClass (c : Cfg) (b : Byte) (p : Parser) : Parser × ParserEvent :=
  match p.ps with
  | .idle => (p, .none)
  | .readingLabel => labelByte b p
  | .sawTab => firstValueByte b p
  | .readingValue => valueByte b p
  | .readingHexDigits => hexByte c b p

/-- A byte of class OTHER (41_record_parser.md R172, R181, R182, R184-R186). -/
def parseOtherClass (c : Cfg) (b : Byte) (p : Parser) : Parser × ParserEvent :=
  match p.ps with
  | .idle => (p, .none)
  | .readingLabel => badLabelByte b p
  | .sawTab => firstValueByte b p
  | .readingValue => valueByte b p
  | .readingHexDigits => hexByte c b p

/-- `ParserStep` (41_record_parser.md R172): the class of the byte and the parser state select the action. -/
def parserStep (c : Cfg) (strict : Bool) (p : Parser) (b : Byte) : Parser × ParserEvent :=
  match classOf b with
  | .colon => parseColon p
  | .tab => parseTab p
  | .cr => parseEol c strict p
  | .lf => parseEol c strict p
  | .hexdig => parseLabelClass c b p
  | .labelOnly => parseLabelClass c b p
  | .other => parseOtherClass c b p

/-- Is the byte of a step echoed: enabled, and hex mode neither before nor after it (41_record_parser.md R187)? -/
def echoes (echoEn : Bool) (pre post : ParserState) : Bool :=
  echoEn && decide (pre ≠ .readingHexDigits) && decide (post ≠ .readingHexDigits)

/-- The echo of a step (41_record_parser.md R187). -/
def State.echoIf (s : State) (c : Bool) (b : Byte) : State := if c then s.echoByte b else s

/-- What follows the parser's own event (41_record_parser.md R171). -/
def State.follow (s : State) (ev : ParserEvent) : State :=
  match ev with
  | .none => s
  | .err e => s.raise e
  | .text label value => ((s.emit (.textField label value)).textClassify label value).burstCount label
  | .hex d raw => s.dispatch d raw

/-- One RX_BYTE step with the parser's answer given (41_record_parser.md R171): the parser registers are written, the
byte is echoed where R187 says so, then what follows from the parser's event. RX_BYTE has no result
(45_tx_and_control.md R292). -/
def State.receive (s : State) (b : Byte) (r : Parser × ParserEvent) : State :=
  (({ s with parser := r.1, result := none } : State).echoIf (echoes s.echoEn s.parser.ps r.1.ps) b).follow r.2

end Sys2Proof.Machine
end

