-- ==== Sys2Proof/Machine/ByteClasses.lean ====
section
/-! DEFINITION. The meanings of the received-byte rows (spec 30_encoding.md R106, 41_record_parser.md R172): each is
the whole RX_BYTE step (41_record_parser.md R171) for a byte of its class. -/

namespace Sys2Proof.Machine

/-- BYTE_COLON (41_record_parser.md R173). -/
def execByteColon (s : State) : Result := .next (s.receive chColon (parseColon s.parser))

/-- BYTE_TAB (41_record_parser.md R174, R175). -/
def execByteTab (s : State) : Result := .next (s.receive chTab (parseTab s.parser))

/-- BYTE_CR (41_record_parser.md R176-R180). -/
def execByteCr (s : State) : Result := .next (s.receive chCr (parseEol s.cfg s.hexStrict s.parser))

/-- BYTE_LF (41_record_parser.md R176-R180). -/
def execByteLf (s : State) : Result := .next (s.receive chLf (parseEol s.cfg s.hexStrict s.parser))

/-- BYTE_HEXDIG (41_record_parser.md R181, R183-R186). -/
def execByteHexdig (b : Byte) (s : State) : Result := .next (s.receive b (parseLabelClass s.cfg b s.parser))

/-- BYTE_LABELONLY (41_record_parser.md R181, R183-R186). -/
def execByteLabelOnly (b : Byte) (s : State) : Result := .next (s.receive b (parseLabelClass s.cfg b s.parser))

/-- BYTE_OTHER (41_record_parser.md R181, R182, R184-R186). -/
def execByteOther (b : Byte) (s : State) : Result := .next (s.receive b (parseOtherClass s.cfg b s.parser))

end Sys2Proof.Machine
end

