-- ==== Sys2Proof/Machine/DescriptorKinds.lean ====
section
/-! DEFINITION. The meanings of the descriptor rows (spec 30_encoding.md R111): the decode strategy of that kind on a
decoded buffer, and what its answer does (43_register_decode.md R231, R236-R240). DESIGN CHOICE, log entry 16, unsafe:
as an instruction of its own such a row takes a decoded buffer of any length, below 5 bytes, where R232 stops before
any strategy, and above 512 bytes (20_memory.md R70) included. -/

namespace Sys2Proof.Machine

/-- DESC_ScalarNumeric (43_register_decode.md R236). -/
def execDescScalarNumeric (id : RegId) (w : Width) (sc : Scale) (d : Bytes) (s : State) : Result :=
  .next (s.applyDecoded id sc d (decScalar d w))

/-- DESC_BitFlags (43_register_decode.md R237). -/
def execDescBitFlags (id : RegId) (w : Width) (sc : Scale) (d : Bytes) (s : State) : Result :=
  .next (s.applyDecoded id sc d (decFlags d w))

/-- DESC_Enum (43_register_decode.md R238). -/
def execDescEnum (id : RegId) (w : Width) (sc : Scale) (m : List EnumEntry) (d : Bytes) (s : State) : Result :=
  .next (s.applyDecoded id sc d (decEnum d w m))

/-- DESC_CompositeRecord (43_register_decode.md R239); the width is not read (30_encoding.md R111). -/
def execDescCompositeRecord (id : RegId) (_ : Width) (sc : Scale) (fs : List Width) (d : Bytes) (s : State) : Result :=
  .next (s.applyDecoded id sc d (decComposite d fs))

/-- DESC_RawString (43_register_decode.md R240); the width is not read (30_encoding.md R111). -/
def execDescRawString (id : RegId) (_ : Width) (sc : Scale) (d : Bytes) (s : State) : Result :=
  .next (s.applyDecoded id sc d (decRawString d))

end Sys2Proof.Machine
end

