-- ==== Sys2Proof/Machine/ErrorCodes.lean ====
section
/-! DEFINITION. The meanings of the error rows (spec 60_exceptions.md R320): the error is raised with its info and the
state after is that of the row (R320, R323). DESIGN CHOICE, log entry 17, unsafe: as an instruction of its own such a row
takes the info as a free operand. -/

namespace Sys2Proof.Machine

/-- ERR_ChecksumMismatch, code 1 (60_exceptions.md R320). -/
def execErrChecksumMismatch (raw : Bytes) (s : State) : Result := .next (s.takeError (.checksumMismatch raw))

/-- ERR_InvalidLabelChar, code 2 (60_exceptions.md R320). -/
def execErrInvalidLabelChar (b : Byte) (s : State) : Result := .next (s.takeError (.invalidLabelChar b))

/-- ERR_LabelTooLong, code 3 (60_exceptions.md R320). -/
def execErrLabelTooLong (s : State) : Result := .next (s.takeError .labelTooLong)

/-- ERR_UnknownRegister, code 4 (60_exceptions.md R320). -/
def execErrUnknownRegister (id : RegId) (r : BitVec 3) (s : State) : Result :=
  .next (s.takeError (.unknownRegister id r))

/-- ERR_PayloadTooShort, code 5 (60_exceptions.md R320). -/
def execErrPayloadTooShort (cmd : Byte) (n : Nat) (s : State) : Result :=
  .next (s.takeError (.payloadTooShort cmd n))

end Sys2Proof.Machine
end

