-- ==== Sys2Proof/Machine/EventTags.lean ====
section
/-! DEFINITION. The meanings of the event rows (spec 30_encoding.md R121): the event is appended to EVT
(00_scope.md R16), and nothing else changes. DESIGN CHOICE, log entry 17, unsafe: as an instruction of its own such a row
takes the event's contents as free operands. -/

namespace Sys2Proof.Machine

/-- EVT_TEXTFIELD (41_record_parser.md R178). -/
def execEvtTextField (label value : Bytes) (s : State) : Result := .next (s.emit (.textField label value))

/-- EVT_FRAME (42_frame_dispatch.md R210). -/
def execEvtFrame (f : FrameEvent) (s : State) : Result := .next (s.emit (.frame f))

/-- EVT_ERROR (00_scope.md R16, 60_exceptions.md R320). -/
def execEvtError (e : BlockError) (s : State) : Result := .next (s.raise e)

/-- EVT_CACHECHANGE (44_register_cache.md R262). -/
def execEvtCacheChange (id : RegId) (sc : Scale) (v : RegValue) (s : State) : Result :=
  .next (s.emit (.cacheChange id sc v))

end Sys2Proof.Machine
end

