-- ==== Sys2Proof/Machine/FrameCommands.lean ====
section
/-! DEFINITION. The meanings of the frame rows (spec 30_encoding.md R108): the dispatch of a good frame with that
command (42_frame_dispatch.md R219-R227). `rest` is D after its command byte, `raw` the frame's digit string (R217).
DESIGN CHOICE, log entry 17, unsafe: as an instruction of its own such a row takes both as free operands. -/

namespace Sys2Proof.Machine

/-- PING (42_frame_dispatch.md R219). -/
def execPing (rest raw : Bytes) (s : State) : Result := .next (s.dispatchNone (cmdPing :: rest) raw)

/-- APPVER (42_frame_dispatch.md R220). -/
def execAppver (rest raw : Bytes) (s : State) : Result := .next (s.dispatchNone (cmdAppver :: rest) raw)

/-- PRODUCT_ID (42_frame_dispatch.md R221). -/
def execProductId (rest raw : Bytes) (s : State) : Result := .next (s.dispatchNone (cmdProductId :: rest) raw)

/-- PING_RESPONSE (42_frame_dispatch.md R222). -/
def execPingResponse (rest raw : Bytes) (s : State) : Result := .next (s.dispatchPing (cmdPingResponse :: rest) raw)

/-- RESTART (42_frame_dispatch.md R223): the block itself does not restart. -/
def execRestart (rest raw : Bytes) (s : State) : Result := .next (s.dispatchNone (cmdRestart :: rest) raw)

/-- GET (42_frame_dispatch.md R224). -/
def execGet (rest raw : Bytes) (s : State) : Result := .next (s.dispatchReg (cmdGet :: rest) raw)

/-- SET (42_frame_dispatch.md R225). -/
def execSet (rest raw : Bytes) (s : State) : Result := .next (s.dispatchReg (cmdSet :: rest) raw)

/-- ASYNC (42_frame_dispatch.md R226). -/
def execAsync (rest raw : Bytes) (s : State) : Result := .next (s.dispatchReg (cmdAsync :: rest) raw)

/-- UNASSIGNED_CMD (42_frame_dispatch.md R227): reported like any other command. -/
def execUnassignedCmd (c : BitVec 4) (rest raw : Bytes) (s : State) : Result :=
  .next (s.dispatchNone (c.setWidth 8 :: rest) raw)

end Sys2Proof.Machine
end

