-- ==== Sys2Proof/Machine/Csr.lean ====
section
/-! DEFINITION. The CSR space (spec 45_tx_and_control.md R295, R296, R300-R303): the control registers and the status
registers, which are views computed at each read (10_state.md R44). -/

namespace Sys2Proof.Machine

abbrev csrCtrl : Byte := 0x00
abbrev csrBthr : Byte := 0x04
abbrev csrPstat : Byte := 0x08
abbrev csrQstat : Byte := 0x0C
abbrev csrCstat : Byte := 0x10

/-- The code of a parser state (10_state.md R33). -/
def psCode : ParserState → BitVec 3
  | .idle => 0
  | .readingLabel => 1
  | .sawTab => 2
  | .readingValue => 3
  | .readingHexDigits => 4

/-- The 11-bit HLEN field (45_tx_and_control.md R301). A count above 2047 is given no value: a free value (log entry 9). -/
def hlenField (n : Nat) : BitVec 11 := if n < 2048 then BitVec.ofNat 11 n else Config.hlenOverflow n

/-- PSTAT (45_tx_and_control.md R301). -/
def pstat (p : Parser) : Word :=
  0#5 ++ hlenField p.hbuf.length ++ 0#2 ++ BitVec.ofNat 6 p.vbuf.length ++ BitVec.ofNat 4 p.lbuf.length ++ 0#1 ++ psCode p.ps

/-- QSTAT (45_tx_and_control.md R302). -/
def qstat (bcnt : BitVec 8) (txq : List Bytes) : Word := 0#8 ++ BitVec.ofNat 16 txq.length ++ bcnt

/-- CSTAT (45_tx_and_control.md R303). -/
def cstat (c : Cache) : Word := 0#15 ++ BitVec.ofNat 17 c.length

/-- The 32-bit value of a CSR address; a reserved address reads 0 (45_tx_and_control.md R295, R300). -/
def State.csr (s : State) (a : Byte) : Word :=
  if a = csrCtrl then ctrlWord s.echoEn s.hexStrict
  else if a = csrBthr then bthrWord s.bthr
  else if a = csrPstat then pstat s.parser
  else if a = csrQstat then qstat s.bcnt s.txq
  else if a = csrCstat then cstat s.cache
  else 0

/-- The write of a CSR address; every read-only or reserved bit and address ignores it (45_tx_and_control.md R296). -/
def State.csrPut (s : State) (a : Byte) (v : Word) : State :=
  if a = csrCtrl then { s with echoEn := ctrlEchoEn v, hexStrict := ctrlHexStrict v }
  else if a = csrBthr then { s with bthr := bthrField v }
  else s

end Sys2Proof.Machine
end

