-- ==== Sys2Proof/Machine/HostOps.lean ====
section
/-! DEFINITION. The meanings of the host operations (spec 30_encoding.md R120). -/

namespace Sys2Proof.Machine

/-- RX_BYTE (45_tx_and_control.md R290): the step of 41_record_parser.md R171. It is never refused. -/
def execRxByte (b : Byte) (s : State) : Result :=
  .next (s.receive b (parserStep s.cfg s.hexStrict s.parser b))

/-- ENCODE (40_frame_codec.md R150): no state is written. -/
def execEncode (bs : Bytes) (s : State) : Result := .next (s.withResult (some (.bytes (encodeFrame bs))))

/-- DECODE_FRAME (40_frame_codec.md R151): no state is written. -/
def execDecodeFrame (bs : Bytes) (s : State) : Result :=
  .next (s.withResult (some (.decoded (decodeString s.cfg s.hexStrict bs))))

/-- ENQUEUE (45_tx_and_control.md R291): a string of 1..512 bytes joins a queue that is not full; a refused one changes
nothing. -/
def execEnqueue (bs : Bytes) (s : State) : Result :=
  if bs.length < 1 ∨ Config.bufCap < bs.length ∨ s.txq.length = s.cfg.queueDepth then
    .next (s.withResult (some .refused))
  else .next ({ s with txq := s.txq ++ [bs] }.withResult (some .ok))

/-- CACHE_READ (45_tx_and_control.md R297): no state is written. -/
def execCacheRead (id : RegId) (s : State) : Result :=
  .next (s.withResult (some (.entry (cacheFind id s.cache))))

/-- CACHE_INVALIDATE (45_tx_and_control.md R298). -/
def execCacheInvalidate (id : RegId) (s : State) : Result := .next ((s.invalidate id).withResult (some .ok))

/-- CSR_READ (45_tx_and_control.md R295): no state is written. -/
def execCsrRead (a : Byte) (s : State) : Result := .next (s.withResult (some (.word (s.csr a))))

/-- CSR_WRITE (45_tx_and_control.md R296). -/
def execCsrWrite (a : Byte) (v : Word) (s : State) : Result := .next ((s.csrPut a v).withResult (some .ok))

/-- SESSION_RESET (45_tx_and_control.md R299). -/
def execSessionReset (s : State) : Result := .next (s.resetSession.withResult (some .ok))

/-- RESET (45_tx_and_control.md R304). -/
def execReset (s : State) : Result := .next (s.resetAll.withResult (some .ok))

/-- RESERVED_OP (45_tx_and_control.md R305): REFUSED, and no state and no output stream changes. -/
def execReservedOp (_ : BitVec 4) (s : State) : Result := .next (s.withResult (some .refused))

end Sys2Proof.Machine
end

