-- ==== Sys2Proof/Machine/Dispatch.lean ====
section
/-! DEFINITION. The meaning of every instruction: one arm per constructor of Instr. -/

namespace Sys2Proof.Machine

def exec (i : Instr) (s : State) : Host.Outcome State Fault Refusal :=
  match i with
  | .rxByte b => Sys2Proof.Machine.execRxByte b s
  | .encode bs => Sys2Proof.Machine.execEncode bs s
  | .decodeFrame bs => Sys2Proof.Machine.execDecodeFrame bs s
  | .enqueue bs => Sys2Proof.Machine.execEnqueue bs s
  | .cacheRead id => Sys2Proof.Machine.execCacheRead id s
  | .cacheInvalidate id => Sys2Proof.Machine.execCacheInvalidate id s
  | .csrRead a => Sys2Proof.Machine.execCsrRead a s
  | .csrWrite a v => Sys2Proof.Machine.execCsrWrite a v s
  | .sessionReset => Sys2Proof.Machine.execSessionReset s
  | .reset => Sys2Proof.Machine.execReset s
  | .reservedOp op => Sys2Proof.Machine.execReservedOp op s
  | .byteColon => Sys2Proof.Machine.execByteColon s
  | .byteTab => Sys2Proof.Machine.execByteTab s
  | .byteCr => Sys2Proof.Machine.execByteCr s
  | .byteLf => Sys2Proof.Machine.execByteLf s
  | .byteHexdig b => Sys2Proof.Machine.execByteHexdig b s
  | .byteLabelOnly b => Sys2Proof.Machine.execByteLabelOnly b s
  | .byteOther b => Sys2Proof.Machine.execByteOther b s
  | .ping rest raw => Sys2Proof.Machine.execPing rest raw s
  | .appver rest raw => Sys2Proof.Machine.execAppver rest raw s
  | .productId rest raw => Sys2Proof.Machine.execProductId rest raw s
  | .pingResponse rest raw => Sys2Proof.Machine.execPingResponse rest raw s
  | .restart rest raw => Sys2Proof.Machine.execRestart rest raw s
  | .get rest raw => Sys2Proof.Machine.execGet rest raw s
  | .set rest raw => Sys2Proof.Machine.execSet rest raw s
  | .async rest raw => Sys2Proof.Machine.execAsync rest raw s
  | .unassignedCmd c rest raw => Sys2Proof.Machine.execUnassignedCmd c rest raw s
  | .descScalarNumeric id w sc d => Sys2Proof.Machine.execDescScalarNumeric id w sc d s
  | .descBitFlags id w sc d => Sys2Proof.Machine.execDescBitFlags id w sc d s
  | .descEnum id w sc m d => Sys2Proof.Machine.execDescEnum id w sc m d s
  | .descCompositeRecord id w sc fs d => Sys2Proof.Machine.execDescCompositeRecord id w sc fs d s
  | .descRawString id w sc d => Sys2Proof.Machine.execDescRawString id w sc d s
  | .evtTextField label value => Sys2Proof.Machine.execEvtTextField label value s
  | .evtFrame f => Sys2Proof.Machine.execEvtFrame f s
  | .evtError e => Sys2Proof.Machine.execEvtError e s
  | .evtCacheChange id sc v => Sys2Proof.Machine.execEvtCacheChange id sc v s
  | .errChecksumMismatch raw => Sys2Proof.Machine.execErrChecksumMismatch raw s
  | .errInvalidLabelChar b => Sys2Proof.Machine.execErrInvalidLabelChar b s
  | .errLabelTooLong => Sys2Proof.Machine.execErrLabelTooLong s
  | .errUnknownRegister id r => Sys2Proof.Machine.execErrUnknownRegister id r s
  | .errPayloadTooShort cmd n => Sys2Proof.Machine.execErrPayloadTooShort cmd n s

end Sys2Proof.Machine
end

