-- ==== Sys2Proof/Machine/Fetch.lean ====
section
/-! DEFINITION. Taking the next operation. The block has no program counter and fetches no instructions (spec
10_state.md R31, 20_memory.md R86): it takes the operations in the order the host issues them (R81), here the head of
`pending` (log entries 1 and 3). -/

namespace Sys2Proof.Machine

/-- The request of a bare word of spec/opcode_table.json (log entry 2). -/
def tableRequest (nbits w : Nat) : Request := ⟨tableFormat w, tableBytes nbits w⟩

/-- The state with a request issued before all that are pending. -/
def State.issueFirst (s : State) (r : Request) : State := { s with pending := r :: s.pending }

/-- The request by which the host issues an instruction. -/
def requestOf (i : Instr) : Request := ⟨i.format, encode i⟩

/-- The state after the host issues operations, behind those already pending (20_memory.md R81). -/
def State.issue (s : State) (is : List Instr) : State := { s with pending := s.pending ++ is.map requestOf }

/-- Runs the operation of a request; bytes after the operation are not read. -/
def runRequest (r : Request) (s : State) : Result :=
  match decode r.format r.bytes with
  | .ok (i, _) => exec i s
  | .error e => .refused (.undecodable e)

/-- One operation in the host's order: the oldest pending request leaves the list and runs. With none pending the
block holds its state (60_exceptions.md R337). -/
def stepPending (s : State) : Result :=
  match s.pending with
  | [] => .next s
  | r :: rs => runRequest r { s with pending := rs }

end Sys2Proof.Machine
end

