-- ==== Sys2Proof/Machine/Step.lean ====
section
/-! DEFINITION. One step of the machine: one atomic operation (spec 00_scope.md R7, 20_memory.md R79, R81). -/

namespace Sys2Proof.Machine

/-- One step: the next operation the host has issued. -/
def step (s : State) : Host.Outcome State Fault Refusal := stepPending s

/-- `s` with a bare word of spec/opcode_table.json issued as its next operation (log entries 2 and 3). -/
def State.withFetchWord (s : State) (nbits w : Nat) : State := s.issueFirst (tableRequest nbits w)

end Sys2Proof.Machine
end

