-- ==== Sys2Proof/Machine/Bridge.lean ====
section
/-! DEFINITION. A bridge: two instances of the block, one for each link, that share nothing (spec 00_scope.md R8,
10_state.md R50, 45_tx_and_control.md R309, 60_exceptions.md R335). The host issues their operations one at a time. -/

namespace Sys2Proof.Machine

/-- The links of a bridge (60_exceptions.md R335). -/
inductive Link where
  | charger
  | gateway
deriving DecidableEq, Repr

/-- The two instances of a bridge. -/
structure Bridge where
  charger : State
  gateway : State
deriving DecidableEq, Repr

/-- The instance of a link. -/
def Bridge.at (b : Bridge) : Link → State
  | .charger => b.charger
  | .gateway => b.gateway

/-- The bridge with the instance of one link replaced. -/
def Bridge.put (b : Bridge) (l : Link) (s : State) : Bridge :=
  match l with
  | .charger => { b with charger := s }
  | .gateway => { b with gateway := s }

/-- One operation on the instance of one link. -/
def Bridge.exec (b : Bridge) (l : Link) (i : Instr) : Host.Outcome Bridge Fault Refusal :=
  match Sys2Proof.Machine.exec i (b.at l) with
  | .next s => .next (b.put l s)
  | .fault f => .fault f
  | .refused r => .refused r

end Sys2Proof.Machine
end

