-- ==== Sys2Proof/Machine/Program.lean ====
section
/-! DEFINITION. The pseudo-operations of a host program and their expansions (spec 30_encoding.md R124), and running a
list of operations in their order (20_memory.md R81). -/

namespace Sys2Proof.Machine

/-- `RX "s"`: one RX_BYTE for each byte (30_encoding.md R124). -/
def rx (bs : Bytes) : List Instr := bs.map .rxByte

/-- `RXHEX [bytes]`: RX of what ENCODE gives for them (30_encoding.md R124). -/
def rxHex (bs : Bytes) : List Instr := rx (encodeFrame bs)

/-- `RXTEXT L V`: RX of the record (30_encoding.md R124). -/
def rxText (label value : Bytes) : List Instr := rx (label ++ chTab :: (value ++ [chCr, chLf]))

/-- The operations in order, each on the state the one before it left, stopping at a fault or a refusal. -/
def execAll : List Instr → State → Result
  | [], s => .next s
  | i :: is, s =>
    match exec i s with
    | .next s' => execAll is s'
    | .fault f => .fault f
    | .refused r => .refused r

end Sys2Proof.Machine
end

