-- ==== Sys2Proof/Machine/Build.lean ====
section
/-! DEFINITION. Building an instance from the configuration a host hands over (spec 70_reset_and_hazards.md R353,
30_encoding.md R111): an ill-formed one is refused by name and no instance is built. -/

namespace Sys2Proof.Machine

/-- Why no instance is built (70_reset_and_hazards.md R353). -/
inductive BuildError where
  /-- An ill-formed descriptor (30_encoding.md R111). -/
  | badDescriptor (p : DescProblem)
  /-- Two descriptors with one id (30_encoding.md R111). -/
  | repeatedId
  /-- A burst label outside 1..9 bytes. -/
  | badBurstLabel
  /-- HEX_CAP even or below 3. -/
  | badHexCap
  /-- QUEUE_DEPTH outside 1..65535. -/
  | badQueueDepth
deriving DecidableEq, Repr

/-- The typed table of a raw one, refused at its first ill-formed descriptor. -/
def checkTable : List RawDescriptor → Except DescProblem (List Descriptor)
  | [] => .ok []
  | r :: rs =>
    match checkDescriptor r with
    | .error p => .error p
    | .ok x =>
      match checkTable rs with
      | .error p => .error p
      | .ok xs => .ok (x :: xs)

/-- A burst label has 1..9 bytes (70_reset_and_hazards.md R353). -/
def burstLabelOk (l : Bytes) : Bool := decide (1 ≤ l.length) && decide (l.length ≤ Config.labelMax)

/-- HEX_CAP is odd and at least 3 (70_reset_and_hazards.md R353). -/
def hexCapOk (n : Nat) : Bool := decide (n % 2 = 1) && decide (3 ≤ n)

/-- QUEUE_DEPTH is between 1 and 65535 (70_reset_and_hazards.md R353). -/
def queueDepthOk (n : Nat) : Bool := decide (1 ≤ n) && decide (n ≤ 65535)

/-- A configuration an instance can be built with (70_reset_and_hazards.md R353). -/
def cfgWf (c : Cfg) : Bool :=
  Config.idsUnique c.regTable && c.burstLabels.all burstLabelOk && hexCapOk c.hexCap && queueDepthOk c.queueDepth

/-- The configuration of a raw one, or the name of what is wrong with it (70_reset_and_hazards.md R353). -/
def checkCfg (r : RawCfg) : Except BuildError Cfg :=
  match checkTable r.regTable with
  | .error p => .error (.badDescriptor p)
  | .ok t =>
    if Config.idsUnique t = false then .error .repeatedId
    else if r.burstLabels.all burstLabelOk = false then .error .badBurstLabel
    else if hexCapOk r.hexCap = false then .error .badHexCap
    else if queueDepthOk r.queueDepth = false then .error .badQueueDepth
    else .ok ⟨t, r.textMap, r.burstLabels, r.hexCap, r.queueDepth, r.oddDigitPolicy⟩

/-- Building an instance: its state is the one after RESET (70_reset_and_hazards.md R350, R353). DESIGN CHOICE, log
entry 18, unsafe: the host hands over the whole REG_TABLE, TEXT_MAP and BURST_LABELS, and nothing asks that they hold the
entries and labels that 00_scope.md R10, 43_register_decode.md R230 and 44_register_cache.md R270 pin. An instance whose
table, map or labels lack or contradict them is built. -/
def build (r : RawCfg) : Except BuildError State :=
  match checkCfg r with
  | .error e => .error e
  | .ok c => .ok (State.ofCfg c)

end Sys2Proof.Machine
end

