-- ==== Sys2Proof/Safety.lean ====
section
/-! DEFINITION. What holds of a state between two operations (spec 10_state.md R30, R35-R41), and what a safe run is. -/

namespace Sys2Proof.Machine

/-- A byte that may stand in LBUF: a label byte other than `:` (10_state.md R35, 30_encoding.md R105). -/
def labelByteOk (b : Byte) : Bool := islabel b && decide (b ≠ chColon)

/-- A byte that may stand in VBUF: any but `:`, TAB, CR and LF (30_encoding.md R105). -/
def valueByteOk (b : Byte) : Bool :=
  decide (b ≠ chColon) && decide (b ≠ chTab) && decide (b ≠ chCr) && decide (b ≠ chLf)

/-- The buffers hold only bytes and lengths they may hold (10_state.md R35-R37). -/
structure Parser.Bounded (hexCap : Nat) (p : Parser) : Prop where
  label_length : p.lbuf.length ≤ Config.labelMax
  label_bytes : ∀ b ∈ p.lbuf, labelByteOk b = true
  value_length : p.vbuf.length ≤ Config.valueMax
  value_bytes : ∀ b ∈ p.vbuf, valueByteOk b = true
  hex_length : p.hbuf.length ≤ hexCap
  hex_bytes : ∀ b ∈ p.hbuf, ishex b = true

/-- Which buffers are empty in which parser state: the table of 10_state.md R38. -/
def Parser.Shaped (p : Parser) : Prop :=
  match p.ps with
  | .idle => p.lbuf = [] ∧ p.vbuf = [] ∧ p.hbuf = []
  | .readingLabel => p.vbuf = [] ∧ p.hbuf = []
  | .sawTab => p.vbuf = [] ∧ p.hbuf = []
  | .readingValue => p.vbuf ≠ [] ∧ p.hbuf = []
  | .readingHexDigits => p.lbuf = [] ∧ p.vbuf = []

/-- The queue holds at most QUEUE_DEPTH strings, each of 1..512 bytes (10_state.md R40). -/
structure QueueBounded (depth : Nat) (q : List Bytes) : Prop where
  count : q.length ≤ depth
  entries : ∀ e ∈ q, 1 ≤ e.length ∧ e.length ≤ Config.bufCap

/-- What holds of a state between any two operations. -/
structure State.Inv (s : State) : Prop where
  parser_bounded : s.parser.Bounded s.cfg.hexCap
  parser_shaped : s.parser.Shaped
  cache_ordered : cacheWf s.cache = true
  queue_bounded : QueueBounded s.cfg.queueDepth s.txq

/-- A run that stops nowhere: every one of its first `k` steps answers a next state. -/
def SafeFor : Nat → State → Prop
  | 0, _ => True
  | k + 1, s => ∃ t, step s = .next t ∧ SafeFor k t

/-! ### Terms of the statements -/

/-- The echo of a byte outside hex mode (41_record_parser.md R187). -/
def State.echoOutput (s : State) (b : Byte) : List Output := if s.echoEn then [.echo b] else []

/-- The echoes of bytes outside hex mode (41_record_parser.md R187). -/
def State.echoOutputs (s : State) (bs : Bytes) : List Output := if s.echoEn then bs.map .echo else []

/-- Is an event an Error event (30_encoding.md R121)? -/
def isError : Event → Bool
  | .error _ => true
  | .textField _ _ => false
  | .frame _ => false
  | .cacheChange _ _ _ => false

/-- Is an event a CacheChange event (30_encoding.md R121)? -/
def isCacheChange : Event → Bool
  | .cacheChange _ _ _ => true
  | .textField _ _ => false
  | .frame _ => false
  | .error _ => false

/-- The events of a state without the CacheChange events. -/
def State.evtBut (s : State) : List Event := s.evt.filter fun e => !isCacheChange e

/-- The three rows of class H_REG: the command, the command of the response skeleton, and the row
(30_encoding.md R109, 42_frame_dispatch.md R215). -/
def registerRows : List (Byte × Byte × (Bytes → Bytes → Instr)) :=
  [(0x07, 0x07, .get), (0x08, 0x08, .set), (0x0A, 0x01, .async)]

/-- The Frame event of a register frame (42_frame_dispatch.md R211, R214). -/
def registerFrame (cmd resp : Byte) (rest raw : Bytes) : Event :=
  .frame
    { d := cmd :: rest
      id := some (BitVec.ofNat 16 (memRead (cmd :: rest) 1 2))
      flags := some (rest.getD 2 0)
      resp := [resp, rest.getD 0 0, rest.getD 1 0, rest.getD 2 0]
      raw := raw }

/-- The rows of the classes HEXDIG, LABELONLY and OTHER for a byte (30_encoding.md R106). -/
def otherRows (b : Byte) : List Instr := [.byteHexdig b, .byteLabelOnly b, .byteOther b]

/-- A descriptor is the typed form of a raw one: the same id and scale, the width of that many bytes, and the kind of
that code with its map or its field widths, empty where they are not given (30_encoding.md R111, log entry 5). -/
def TypedForm (x : RawDescriptor) (y : Descriptor) : Prop :=
  y.id = x.id ∧ y.body.scale = x.scale ∧ y.body.width.bytes = x.width ∧
  match y.body.kind with
  | .scalarNumeric => x.kind = 0
  | .bitFlags => x.kind = 1
  | .enum m => x.kind = 2 ∧ m = x.map.getD []
  | .compositeRecord ws => x.kind = 3 ∧ ws.map Width.bytes = x.fields.getD []
  | .rawString => x.kind = 4

/-- The digits of a frame: what stands between its `:` and its LF (30_encoding.md R100). -/
def frameDigits (frame : Bytes) : Bytes := frame.tail.dropLast

end Sys2Proof.Machine
end

