-- ==== Sys2Proof/Certificates/Slice0/Obligations.lean ====
section
/-! DEFINITION. The statements for the provers. Each docstring cites the rules of spec/ a statement formalises, or
says that it is the model's choice and names the log entry. -/

open Sys2Proof Sys2Proof.Machine

/-! ### Encoding and the step -/

/-- Every well-formed instruction is read back from its own bytes in its own format, whatever follows them. The codes
are the spec's (30_encoding.md R106, R108, R111, R120, R121; 60_exceptions.md R320); the layout of the operands is the
model's choice (log entry 1). -/
def Obligations.DecodeEncodeRoundTrip : Prop :=
  ∀ i : Instr, i.WellFormed → ∀ rest : Bytes, decode i.format (encode i ++ rest) = .ok (i, rest)

/-- What the decoder answers is well-formed and belongs to the format it was asked for. -/
def Obligations.DecodedInstructionIsWellFormed : Prop :=
  ∀ (f : Format) (bs rest : Bytes) (i : Instr), decode f bs = .ok (i, rest) → i.WellFormed ∧ i.format = f

/-- Words written out from the codes of the spec, one of every format, decode to the instruction they stand for. -/
def Obligations.KnownWordsDecode : Prop :=
  decode .hostOp [0x0, 0x41] = .ok (.rxByte 0x41, []) ∧
  decode .hostOp [0x7, 0x04, 0x03, 0x00, 0x00, 0x00] = .ok (.csrWrite 0x04 3, []) ∧
  decode .hostOp [0xC] = .ok (.reservedOp 0xC, []) ∧
  decode .rxByteClass [0x3A] = .ok (.byteColon, []) ∧
  decode .rxByteClass [0x66] = .ok (.byteHexdig 0x66, []) ∧
  decode .rxByteClass [0x67] = .ok (.byteLabelOnly 0x67, []) ∧
  decode .vehexFrame [0x5, 2, 0, 0, 0, 0x10, 0x43, 1, 0, 0, 0, 0x35] = .ok (.pingResponse [0x10, 0x43] [0x35], []) ∧
  decode .vehexFrame [0xB, 0, 0, 0, 0, 0, 0, 0, 0] = .ok (.unassignedCmd 0xB [] [], []) ∧
  decode .descriptorKind [4, 0x03, 0xF0, 1, 0, 0, 0x80, 0x3F, 0, 0, 1, 0, 0, 0, 7] =
    .ok (.descRawString 0xF003 .u8 0x3F800000 [7], []) ∧
  decode .eventTag [3, 2, 0x2D] = .ok (.evtError (.invalidLabelChar 0x2D), []) ∧
  decode .errorCode [4, 0x34, 0x12, 5] = .ok (.errUnknownRegister 0x1234 5, [])

/-- A step takes the oldest pending request and runs the instruction its bytes decode to (20_memory.md R81). That
requests stand in a list in State is the model's choice (log entries 1 and 3). -/
def Obligations.StepRunsDecodedInstruction : Prop :=
  ∀ (s : State) (r : Request) (rs : List Request) (i : Instr) (rest : Bytes),
    s.pending = r :: rs → decode r.format r.bytes = .ok (i, rest) → step s = exec i { s with pending := rs }

/-- Operations issued to an idle instance run one at a time in the order they were issued, each seeing every effect of
the ones before it (20_memory.md R81). The list of issued operations is the model's choice (log entry 1). -/
def Obligations.IssuedOperationsRunInOrder : Prop :=
  ∀ (is : List Instr) (s : State), (∀ i ∈ is, i.WellFormed) → s.pending = [] →
    Host.Core.run Sys2Proof.core is.length (s.issue is) = execAll is s

/-- No operation stops the machine, and none writes the configuration (30_encoding.md R122, 41_record_parser.md R191,
10_state.md R45), nor the list of operations issued after it (the model's own field, log entry 1). -/
def Obligations.EveryOperationCompletes : Prop :=
  ∀ (i : Instr) (s : State), ∃ t, exec i s = .next t ∧ t.cfg = s.cfg ∧ t.pending = s.pending

/-- The output streams are empty at the beginning, are only appended to, by the resets too, and are never read
(10_state.md R46). -/
def Obligations.OutputStreamsAppendOnly : Prop :=
  State.reset.evt = [] ∧ State.reset.echo = [] ∧ State.reset.tx = [] ∧
  ∀ (i : Instr) (s : State), ∃ (t : State) (new : List Output),
    exec i s = .next t ∧ t.trace = s.trace ++ new ∧
    ∀ u : List Output, exec i { s with trace := u } = .next { t with trace := u ++ new }

/-! ### The frame codec -/

/-- ENCODE hands out the frame of R141, or nothing for a length outside 1..512, and writes no state
(40_frame_codec.md R140, R141, R150). -/
def Obligations.EncodeAnswersTheFrame : Prop :=
  (∀ v : BitVec 4, hexu v =
    [0x30, 0x31, 0x32, 0x33, 0x34, 0x35, 0x36, 0x37, 0x38, 0x39, 0x41, 0x42, 0x43, 0x44, 0x45, 0x46].getD v.toNat 0) ∧
  ∀ (bs : Bytes) (s : State), ∃ out : Bytes,
    exec (.encode bs) s = .next { s with result := some (.bytes out) } ∧
    (bs.length < 1 ∨ 512 < bs.length → out = []) ∧
    (1 ≤ bs.length ∧ bs.length ≤ 512 →
      out =
        0x3A :: hexu ((bs.headD 0).extractLsb' 0 4) ::
          (bs.tail.flatMap (fun x => [hexu (x.extractLsb' 4 4), hexu (x.extractLsb' 0 4)]) ++
            [hexu ((checksum bs).extractLsb' 4 4), hexu ((checksum bs).extractLsb' 0 4), 0x0A]) ∧
      out.length = 2 * bs.length + 3)

/-- The checksum is (0x55 - sum) mod 256 over every byte, and appending it makes a string valid
(40_frame_codec.md R143). -/
def Obligations.ChecksumMakesAStringValid : Prop :=
  (∀ bs : Bytes, ((checksum bs).toNat : Int) = (0x55 - ((bs.map BitVec.toNat).sum : Int)) % 256) ∧
  (∀ bs : Bytes, sumValid (bs ++ [checksum bs]) = true) ∧
  checksum [0x07, 0x04, 0x01, 0x00, 0x02] = 0x47

/-- Decoding the digits of an encoded string gives the string back, strict or lenient and under both policies
(40_frame_codec.md R148). -/
def Obligations.CodecRoundTrip : Prop :=
  ∀ (policy : OddDigitPolicy) (strict : Bool) (bs : Bytes),
    1 ≤ bs.length → bs.length ≤ 512 → bs.headD 0 ≤ 0x0F →
      hexDecode policy strict (frameDigits (encodeFrame bs)) = some bs

/-- A digit string of even length never decodes under `reject`, the default; `ignore_last` drops its last digit and
decodes the rest (40_frame_codec.md R145). -/
def Obligations.EvenDigitCounts : Prop :=
  Config.cfg.oddDigitPolicy = .reject ∧
  ∀ (h : Bytes) (strict : Bool), h.length % 2 = 0 →
    hexDecode .reject strict h = none ∧
    ∀ policy : OddDigitPolicy, h ≠ [] → hexDecode .ignoreLast strict h = hexDecode policy strict h.dropLast

/-- The digit values, in either letter case, and nibble 0 for any other byte (00_scope.md R17, 40_frame_codec.md R144);
an odd string of three or more digits that the mode lets through decodes exactly when the bytes it spells, checksum byte
included, sum to 0x55 mod 256, and then to those bytes without the checksum byte; a shorter string, and one that strict
mode does not let through, never decodes (R142, R144, R146). What decodes, from an even count too, has at least three
digits, one byte for each digit pair after the command digit, and a command that fits one digit (R147). For a count
above 1025 digits, which only a HEX_CAP above 1025 allows, following R144 is the model's choice (log entry 15). -/
def Obligations.DecodedBufferShape : Prop :=
  (∀ (c : Byte) (v : BitVec 4), hexval c = some v ↔
    c = [0x30, 0x31, 0x32, 0x33, 0x34, 0x35, 0x36, 0x37, 0x38, 0x39, 0x41, 0x42, 0x43, 0x44, 0x45, 0x46].getD v.toNat 0 ∨
    c = [0x30, 0x31, 0x32, 0x33, 0x34, 0x35, 0x36, 0x37, 0x38, 0x39, 0x61, 0x62, 0x63, 0x64, 0x65, 0x66].getD v.toNat 0) ∧
  (∀ (c : Byte) (v : BitVec 4), hexval c = some v → ishex c = true ∧ nib c = v) ∧
  (∀ c : Byte, hexval c = none → ishex c = false ∧ nib c = 0) ∧
  (∀ (policy : OddDigitPolicy) (strict : Bool) (h : Bytes), h.length % 2 = 1 → 3 ≤ h.length →
    (strict = true → ∀ b ∈ h, ishex b = true) → ∃ t : Bytes,
      t.length = (h.length + 1) / 2 ∧ (t.getD 0 0).toNat = (nib (h.getD 0 0)).toNat ∧
      (∀ k : Nat, 1 ≤ k → k ≤ (h.length - 1) / 2 →
        (t.getD k 0).toNat = 16 * (nib (h.getD (2 * k - 1) 0)).toNat + (nib (h.getD (2 * k) 0)).toNat) ∧
      hexDecode policy strict h =
        if (t.map BitVec.toNat).sum % 256 = 0x55 then some (t.take ((h.length - 1) / 2)) else none) ∧
  (∀ (policy : OddDigitPolicy) (strict : Bool) (h : Bytes), h.length % 2 = 1 →
    (h.length < 3 ∨ (strict = true ∧ ∃ b ∈ h, ishex b = false)) → hexDecode policy strict h = none) ∧
  ∀ (policy : OddDigitPolicy) (strict : Bool) (h d : Bytes), hexDecode policy strict h = some d →
    3 ≤ h.length ∧ d.length = (h.length - 1) / 2 ∧ d.headD 0 ≤ 0x0F ∧ (h.length ≤ 1025 → d.length ≤ 512) ∧
    (strict = true → h.length % 2 = 1 → ∀ b ∈ h, ishex b = true)

/-- The map between Frame records and byte strings, its inverse, and the source's round trip through the codec
(40_frame_codec.md R149). -/
def Obligations.FrameRecordRoundTrip : Prop :=
  (∀ f : Frame, frameValid f = true ↔ f.command ≤ 0x0F ∧ f.payload.length ≤ 508) ∧
  (∀ f : Frame,
    serialize f = [f.command, f.registerId.extractLsb' 0 8, f.registerId.extractLsb' 8 8, f.flags] ++ f.payload) ∧
  (∀ d : Bytes, 4 ≤ d.length →
    deserialize d = some ⟨d.getD 0 0, BitVec.ofNat 16 (memRead d 1 2), d.getD 3 0, d.drop 4⟩) ∧
  (∀ f : Frame, deserialize (serialize f) = some f) ∧
  (∀ f : Frame, frameValid f = true → 4 ≤ (serialize f).length ∧ (serialize f).length ≤ 512 ∧
    ∀ (policy : OddDigitPolicy) (strict : Bool),
      (hexDecode policy strict (frameDigits (encodeFrame (serialize f)))).bind deserialize = some f)

/-- A frame whose command byte is above 0x0F is encoded, and no receiver decodes it (40_frame_codec.md R141). -/
def Obligations.HighCommandNeverDecodes : Prop :=
  ∀ (policy : OddDigitPolicy) (strict : Bool) (bs : Bytes),
    1 ≤ bs.length → bs.length ≤ 512 → 0x0F < bs.headD 0 →
      encodeFrame bs ≠ [] ∧ hexDecode policy strict (frameDigits (encodeFrame bs)) = none

/-- Changing any one bit of any byte of a valid decoded string, checksum byte included, makes it invalid
(40_frame_codec.md R153). -/
def Obligations.SingleBitFlipIsDetected : Prop :=
  ∀ (t : Bytes) (k : Nat) (j : Fin 8), sumValid t = true → k < t.length →
    sumValid (t.modify k fun b => b ^^^ BitVec.twoPow 8 j) = false

/-- DECODE_FRAME over a whole string: it decodes what stands between the last `:` before the first LF that follows a
`:` and that LF, cut to HEX_CAP bytes; without such an LF it answers Incomplete. It writes no state
(40_frame_codec.md R151). -/
def Obligations.DecodeFrameReadsTheFirstFrame : Prop :=
  ∀ (before restarts : Bytes) (s : State), chColon ∉ before → chLf ∉ restarts →
    exec (.decodeFrame (before ++ restarts)) s = .next { s with result := some (.decoded .incomplete) } ∧
    ∀ digits after : Bytes, chColon ∉ digits → chLf ∉ digits →
      exec (.decodeFrame (before ++ restarts ++ chColon :: (digits ++ chLf :: after))) s =
        .next { s with
          result := some (.decoded
            ((hexDecode s.cfg.oddDigitPolicy s.hexStrict (digits.take s.cfg.hexCap)).elim .fail .ok)) }

/-! ### The host operations -/

/-- ENQUEUE (45_tx_and_control.md R291): a refused one changes nothing, an accepted one goes to the end of the queue;
neither transmits. -/
def Obligations.EnqueueAcceptsOrRefuses : Prop :=
  ∀ (bs : Bytes) (s : State),
    exec (.enqueue bs) s = .next
      (if bs.length < 1 ∨ 512 < bs.length ∨ s.txq.length = s.cfg.queueDepth then { s with result := some .refused }
       else { s with txq := s.txq ++ [bs], result := some .ok })

/-- CACHE_READ answers the entry of the id, valid or not, or absent, and writes no state (45_tx_and_control.md R297).
The order of the entries, which makes an entry unique, is the model's invariant (log entry 10). -/
def Obligations.CacheReadAnswersTheEntry : Prop :=
  ∀ (id : RegId) (s : State), ∃ r : Option CacheEntry,
    exec (.cacheRead id) s = .next { s with result := some (.entry r) } ∧
    (cacheWf s.cache = true → ∀ e : CacheEntry, r = some e ↔ (id, e) ∈ s.cache)

/-- CACHE_INVALIDATE clears the valid bit of one entry and nothing else; an absent id is a no-op; twice is once; the
next set of the id notifies whatever it sets (45_tx_and_control.md R298). -/
def Obligations.CacheInvalidateClearsValid : Prop :=
  ∀ (id : RegId) (s : State), ∃ c : Cache,
    exec (.cacheInvalidate id) s = .next { s with cache := c, result := some .ok } ∧
    cacheFind id c = (cacheFind id s.cache).map (fun e => { e with valid := false }) ∧
    (∀ j : RegId, j ≠ id → cacheFind j c = cacheFind j s.cache) ∧
    (cacheFind id s.cache = none → c = s.cache) ∧
    exec (.cacheInvalidate id) { s with cache := c } = .next { s with cache := c, result := some .ok } ∧
    ∀ (sc : Scale) (v : RegValue),
      (({ s with cache := c } : State).setRegister id sc v).trace = s.trace ++ [.evt (.cacheChange id sc v)]

/-- CSR_READ answers the value of the CSR map and writes no state (45_tx_and_control.md R295, R300-R303). The bounds on
the buffers, the queue and the cache say that each count fits its field. -/
def Obligations.CsrReadAnswersTheMap : Prop :=
  psCode .idle = 0 ∧ psCode .readingLabel = 1 ∧ psCode .sawTab = 2 ∧ psCode .readingValue = 3 ∧
  psCode .readingHexDigits = 4 ∧
  ∀ (a : Byte) (s : State), ∃ v : Word,
    exec (.csrRead a) s = .next { s with result := some (.word v) } ∧
    (a = 0x00 → v.toNat = s.echoEn.toNat + 2 * s.hexStrict.toNat) ∧
    (a = 0x04 → v.toNat = s.bthr.toNat) ∧
    (a = 0x08 → s.parser.lbuf.length ≤ 9 → s.parser.vbuf.length ≤ 33 → s.parser.hbuf.length ≤ 2047 →
      v.toNat = (psCode s.parser.ps).toNat + 16 * s.parser.lbuf.length + 256 * s.parser.vbuf.length +
        65536 * s.parser.hbuf.length) ∧
    (a = 0x0C → s.txq.length ≤ 65535 → v.toNat = s.bcnt.toNat + 256 * s.txq.length) ∧
    (a = 0x10 → s.cache.length ≤ 65536 → v.toNat = s.cache.length) ∧
    (a ≠ 0x00 → a ≠ 0x04 → a ≠ 0x08 → a ≠ 0x0C → a ≠ 0x10 → v = 0)

/-- CSR_WRITE writes the two bits of CTRL or the eight of BTHR; every other address ignores it. What is read back has
its reserved bits 0 (45_tx_and_control.md R296, 10_state.md R42, R43). -/
def Obligations.CsrWriteWritesControl : Prop :=
  (∀ (a : Byte) (v : Word) (s : State),
    exec (.csrWrite a v) s = .next
      (if a = 0x00 then { s with echoEn := v.getLsbD 0, hexStrict := v.getLsbD 1, result := some .ok }
       else if a = 0x04 then { s with bthr := v.extractLsb' 0 8, result := some .ok }
       else { s with result := some .ok })) ∧
  ∀ (v : Word) (s : State),
    (∃ t, execAll [.csrWrite 0x00 v, .csrRead 0x00] s = .next t ∧ t.result = some (.word (v &&& 0x00000003))) ∧
    ∃ t, execAll [.csrWrite 0x04 v, .csrRead 0x04] s = .next t ∧ t.result = some (.word (v &&& 0x000000FF))

/-- RESET leaves every element at its reset value, the configuration and the output streams as they are; the state at
power-on is the state after RESET. SESSION_RESET clears the parser, the cache and the burst count, without an event; the
queue and the control registers stay (70_reset_and_hazards.md R350, R351). -/
def Obligations.ResetsLeave : Prop :=
  (∀ s : State, exec .reset s = .next
    { parser := ⟨.idle, [], [], []⟩, cache := [], txq := [], bcnt := 0, echoEn := false, hexStrict := false, bthr := 9,
      trace := s.trace, result := some .ok, pending := s.pending, cfg := s.cfg }) ∧
  (∀ s : State, exec .sessionReset s = .next
    { s with parser := ⟨.idle, [], [], []⟩, cache := [], bcnt := 0, result := some .ok }) ∧
  State.reset.parser = ⟨.idle, [], [], []⟩ ∧ State.reset.cache = [] ∧ State.reset.txq = [] ∧ State.reset.bcnt = 0 ∧
  State.reset.echoEn = false ∧ State.reset.hexStrict = false ∧ State.reset.bthr = 9

/-- A reserved op code is REFUSED and changes no state and no output stream (45_tx_and_control.md R305). -/
def Obligations.ReservedOpIsRefused : Prop :=
  ∀ (op : BitVec 4) (s : State), exec (.reservedOp op) s = .next { s with result := some .refused }

/-! ### The record parser -/

/-- RX_BYTE is the row of its byte's class, the first match of the class table winning (30_encoding.md R106,
41_record_parser.md R171, R172). -/
def Obligations.RxByteIsItsClassRow : Prop :=
  ∀ (b : Byte) (s : State),
    exec (.rxByte b) s =
      if b = 0x3A then exec .byteColon s
      else if b = 0x09 then exec .byteTab s
      else if b = 0x0D then exec .byteCr s
      else if b = 0x0A then exec .byteLf s
      else if (0x30 ≤ b ∧ b ≤ 0x39) ∨ (0x41 ≤ b ∧ b ≤ 0x46) ∨ (0x61 ≤ b ∧ b ≤ 0x66) then exec (.byteHexdig b) s
      else if b = 0x23 ∨ (0x47 ≤ b ∧ b ≤ 0x5A) ∨ (0x67 ≤ b ∧ b ≤ 0x7A) then exec (.byteLabelOnly b) s
      else exec (.byteOther b) s

/-- A `:` starts hex mode in any state, clears every buffer, and is neither echoed nor reported. A tab ends the label in
ReadingLabel and is ignored in every other state (41_record_parser.md R173, R174, R175). -/
def Obligations.ColonAndTab : Prop :=
  ∀ s : State,
    exec .byteColon s = .next { s with parser := ⟨.readingHexDigits, [], [], []⟩, result := none } ∧
    exec .byteTab s = .next
      (if s.parser.ps = .readingLabel then
        { s with parser := { s.parser with ps := .sawTab }, trace := s.trace ++ s.echoOutput chTab, result := none }
       else if s.parser.ps = .readingHexDigits then { s with result := none }
       else { s with trace := s.trace ++ s.echoOutput chTab, result := none })

/-- CR or LF on a fresh line: a new record begins, without an event (41_record_parser.md R176, R179). -/
def Obligations.FreshLineBeginsARecord : Prop :=
  ∀ s : State,
    (s.parser.ps = .idle ∨ s.parser.ps = .readingLabel ∨ s.parser.ps = .sawTab ∨
      (s.parser.ps = .readingValue ∧ s.parser.lbuf = []) ∨ (s.parser.ps = .readingHexDigits ∧ s.parser.hbuf = [])) →
    ∀ r ∈ [(Instr.byteCr, (0x0D : Byte)), (.byteLf, 0x0A)],
      exec r.1 s = .next
        { s with
          parser := ⟨.readingLabel, [], [], []⟩, result := none
          trace := s.trace ++ if s.parser.ps = .readingHexDigits then [] else s.echoOutput r.2 }

/-- CR or LF after a label and a value: the TextField event, then the classifier, then the burst counter; a new record
begins (41_record_parser.md R171, R177, R178). -/
def Obligations.RecordCompletes : Prop :=
  ∀ s : State, s.parser.ps = .readingValue → s.parser.lbuf ≠ [] →
    ∀ r ∈ [(Instr.byteCr, (0x0D : Byte)), (.byteLf, 0x0A)],
      exec r.1 s = .next
        ((({ s with
            parser := { s.parser with ps := .readingLabel, lbuf := [], vbuf := [] }, result := none
            trace := s.trace ++ s.echoOutput r.2 ++ [.evt (.textField s.parser.lbuf s.parser.vbuf)] } :
          State).textClassify s.parser.lbuf s.parser.vbuf).burstCount s.parser.lbuf)

/-- CR or LF after hex digits: a frame that decodes runs the row of its command, one that does not is reported as
ChecksumMismatch with its digits; the parser is in Idle and nothing is echoed (41_record_parser.md R180). -/
def Obligations.HexFrameEnds : Prop :=
  ∀ s : State, s.parser.ps = .readingHexDigits → s.parser.hbuf ≠ [] →
    ∀ i ∈ [Instr.byteCr, .byteLf],
      exec i s =
        (hexDecode s.cfg.oddDigitPolicy s.hexStrict s.parser.hbuf).elim
          (.next { s with
            parser := { s.parser with ps := .idle, hbuf := [] }, result := none
            trace := s.trace ++ [.evt (.error (.checksumMismatch s.parser.hbuf))] })
          (fun d => exec (frameInstr (d.headD 0) d.tail s.parser.hbuf)
            { s with parser := { s.parser with ps := .idle, hbuf := [] }, result := none })

/-- A byte in ReadingLabel: a label byte joins the label unless it is the tenth, which is LabelTooLong; any other byte
is InvalidLabelChar (41_record_parser.md R182, R183). -/
def Obligations.LabelBytes : Prop :=
  ∀ (b : Byte) (s : State), s.parser.ps = .readingLabel →
    (∀ i ∈ [Instr.byteHexdig b, .byteLabelOnly b],
      exec i s = .next
        (if s.parser.lbuf.length < 9 then
          { s with
            parser := { s.parser with lbuf := s.parser.lbuf ++ [b] }, result := none
            trace := s.trace ++ s.echoOutput b }
         else
          { s with
            parser := { s.parser with ps := .idle, lbuf := [] }, result := none
            trace := s.trace ++ s.echoOutput b ++ [.evt (.error .labelTooLong)] })) ∧
    exec (.byteOther b) s = .next
      { s with
        parser := { s.parser with ps := .idle, lbuf := [] }, result := none
        trace := s.trace ++ s.echoOutput b ++ [.evt (.error (.invalidLabelChar b))] }

/-- A byte of class HEXDIG, LABELONLY or OTHER outside ReadingLabel: Idle discards it, SawTab begins a value with it, a
value keeps its first 33 bytes, and hex mode keeps hex digits up to HEX_CAP (41_record_parser.md R181, R184, R185,
R186). -/
def Obligations.OtherBytesOutsideALabel : Prop :=
  ∀ (b : Byte) (s : State), ∀ i ∈ otherRows b,
    (s.parser.ps = .idle →
      exec i s = .next { s with result := none, trace := s.trace ++ s.echoOutput b }) ∧
    (s.parser.ps = .sawTab →
      exec i s = .next
        { s with
          parser := { s.parser with ps := .readingValue, vbuf := [b] }, result := none
          trace := s.trace ++ s.echoOutput b }) ∧
    (s.parser.ps = .readingValue →
      exec i s = .next
        { s with
          parser := { s.parser with
            vbuf := if s.parser.vbuf.length < 33 then s.parser.vbuf ++ [b] else s.parser.vbuf }
          result := none, trace := s.trace ++ s.echoOutput b }) ∧
    (s.parser.ps = .readingHexDigits →
      exec i s = .next
        { s with
          parser := { s.parser with
            hbuf := if ishex b = true ∧ s.parser.hbuf.length < s.cfg.hexCap then s.parser.hbuf ++ [b]
              else s.parser.hbuf }
          result := none })

/-- A byte is echoed exactly when ECHO_EN is 1 and hex mode holds neither before nor after the step
(41_record_parser.md R187). -/
def Obligations.EchoRule : Prop :=
  ∀ (b : Byte) (s : State), ∃ t,
    exec (.rxByte b) s = .next t ∧
    t.echo = s.echo ++
      if s.echoEn = true ∧ s.parser.ps ≠ .readingHexDigits ∧ t.parser.ps ≠ .readingHexDigits then [b] else []

/-- After a step that raises an error the parser is in Idle with empty buffers, nothing else has changed, and the next
byte is processed (60_exceptions.md R323). -/
def Obligations.ErrorsLeaveTheParserIdle : Prop :=
  ∀ (b : Byte) (s t : State) (new : List Event) (e : BlockError), s.Inv →
    exec (.rxByte b) s = .next t → t.evt = s.evt ++ new → Event.error e ∈ new →
      t.parser = ⟨.idle, [], [], []⟩ ∧ t.cache = s.cache ∧ t.txq = s.txq ∧ t.bcnt = s.bcnt ∧ t.echoEn = s.echoEn ∧
      t.hexStrict = s.hexStrict ∧ t.bthr = s.bthr ∧ ∀ b' : Byte, ∃ u, exec (.rxByte b') t = .next u

/-- A TextField event comes only from the end of a record, and its label and value are non-empty
(41_record_parser.md R190). -/
def Obligations.TextFieldsAreNonEmpty : Prop :=
  ∀ (b : Byte) (s t : State) (new : List Event) (label value : Bytes), s.Inv →
    exec (.rxByte b) s = .next t → t.evt = s.evt ++ new → Event.textField label value ∈ new →
      label ≠ [] ∧ value ≠ [] ∧ s.parser.ps = .readingValue ∧ label = s.parser.lbuf ∧ value = s.parser.vbuf ∧
      (b = 0x0D ∨ b = 0x0A)

/-- The outputs of one RX_BYTE stand in the order echo; TextField, Frame or Error; Error or CacheChange; transmit, each
at most once, and at most one of them an Error (41_record_parser.md R171, 60_exceptions.md R325, R326). -/
def Obligations.OutputsStandInOrder : Prop :=
  ∀ (b : Byte) (s : State), ∃ (t : State) (echoed : List Byte) (first second : List Event) (sent : List Bytes),
    exec (.rxByte b) s = .next t ∧
    t.trace = s.trace ++ echoed.map .echo ++ first.map .evt ++ second.map .evt ++ sent.map .tx ∧
    echoed.length ≤ 1 ∧ first.length ≤ 1 ∧ second.length ≤ 1 ∧ sent.length ≤ 1 ∧
    (∀ e ∈ first, isCacheChange e = false) ∧
    (∀ e ∈ second, isError e = true ∨ isCacheChange e = true) ∧
    (first = [] → second = []) ∧
    (∀ e ∈ first, isError e = true → second = [])

/-- RX_BYTE writes the parser, the cache, the queue and the burst count, and no control register; it has no result
(45_tx_and_control.md R290, R292). -/
def Obligations.RxByteWritesOnly : Prop :=
  ∀ (b : Byte) (s : State), ∃ t,
    exec (.rxByte b) s = .next t ∧ t.result = none ∧ t.echoEn = s.echoEn ∧ t.hexStrict = s.hexStrict ∧
    t.bthr = s.bthr ∧ (t.txq = s.txq ∨ t.txq = s.txq.tail) ∧
    ∀ id : RegId, cacheFind id s.cache ≠ none → cacheFind id t.cache ≠ none

/-- What the parser does with a byte sequence depends on the parser, ECHO_EN and the configuration alone: two instances
that agree on these, whatever their caches, queues, counts, thresholds and HEX_STRICT, end with the same parser, echo
the same bytes and append the same events but for CacheChange (41_record_parser.md R189, 45_tx_and_control.md R296). -/
def Obligations.ParserIsDeterministic : Prop :=
  ∀ (bs : Bytes) (s t : State), s.Inv → t.Inv → s.parser = t.parser → s.echoEn = t.echoEn → s.cfg = t.cfg →
    ∃ (s' t' : State) (echoed : Bytes) (events : List Event),
      execAll (rx bs) s = .next s' ∧ execAll (rx bs) t = .next t' ∧ s'.parser = t'.parser ∧
      s'.echo = s.echo ++ echoed ∧ t'.echo = t.echo ++ echoed ∧
      s'.evtBut = s.evtBut ++ events ∧ t'.evtBut = t.evtBut ++ events

/-- Receiving the encoded frame of a string whose command fits one digit runs the row of that command, from every
state (30_encoding.md R100, 40_frame_codec.md R141, R148, 41_record_parser.md R173, R180, R184). -/
def Obligations.EncodedFrameIsReceived : Prop :=
  ∀ (cmd : Byte) (rest : Bytes) (s : State), cmd ≤ 0x0F → rest.length ≤ 511 → 2 * rest.length + 3 ≤ s.cfg.hexCap →
    execAll (rxHex (cmd :: rest)) s =
      exec (frameInstr cmd rest (frameDigits (encodeFrame (cmd :: rest))))
        { s with parser := ⟨.idle, [], [], []⟩, result := none }

/-- Receiving a text record after a line start delivers its label and value, whole and in order, then the classifier
and the burst counter see them (30_encoding.md R105, 41_record_parser.md R174, R178, R183, R185, R186). -/
def Obligations.TextRecordIsReceived : Prop :=
  ∀ (label value : Bytes) (stop : Byte) (s : State), s.parser = ⟨.readingLabel, [], [], []⟩ →
    1 ≤ label.length → label.length ≤ 9 → (∀ b ∈ label, islabel b = true ∧ b ≠ chColon) →
    1 ≤ value.length → value.length ≤ 33 → (∀ b ∈ value, b ≠ chColon ∧ b ≠ chTab ∧ b ≠ chCr ∧ b ≠ chLf) →
    stop = chCr ∨ stop = chLf →
      execAll (rx (label ++ chTab :: (value ++ [stop]))) s = .next
        ((({ s with
            result := none
            trace := s.trace ++ s.echoOutputs (label ++ chTab :: (value ++ [stop])) ++ [.evt (.textField label value)] } :
          State).textClassify label value).burstCount label)

/-! ### The dispatch -/

/-- PING, APPVER, PRODUCT_ID, RESTART and every unassigned command: a Frame event with id and flags absent and the
command alone as response skeleton; no decode, no error (42_frame_dispatch.md R213). That a frame row, as an instruction
of its own, takes any bytes and any digit string is the model's choice (DESIGN CHOICE, log entry 17). -/
def Obligations.HeaderlessCommandsReport : Prop :=
  ∀ (rest raw : Bytes) (c : BitVec 4) (s : State),
    ∀ r ∈ [((0x01 : Byte), Instr.ping rest raw), (0x03, .appver rest raw), (0x04, .productId rest raw),
        (0x06, .restart rest raw), (c.setWidth 8, .unassignedCmd c rest raw)],
      exec r.2 s = .next
        { s with trace := s.trace ++ [.evt (.frame ⟨r.1 :: rest, none, none, [r.1], raw⟩)] }

/-- PING_RESPONSE: the id, the flags byte where D has four bytes, no register decode; below three bytes it is
PayloadTooShort (42_frame_dispatch.md R212, R222). That a frame row, as an instruction of its own, takes any bytes and
any digit string is the model's choice (DESIGN CHOICE, log entry 17). -/
def Obligations.PingResponseReports : Prop :=
  ∀ (rest raw : Bytes) (s : State),
    exec (.pingResponse rest raw) s = .next
      (if rest.length < 2 then
        { s with trace := s.trace ++ [.evt (.error (.payloadTooShort 0x05 (rest.length + 1)))] }
       else
        { s with
          trace := s.trace ++ [.evt (.frame
            { d := 0x05 :: rest
              id := some (BitVec.ofNat 16 (memRead (0x05 :: rest) 1 2))
              flags := if 3 ≤ rest.length then some (rest.getD 2 0) else none
              resp := [0x05, rest.getD 0 0, rest.getD 1 0]
              raw := raw })] })

/-- A GET, SET or ASYNC frame below four bytes is PayloadTooShort with no Frame event; with four bytes it is a Frame
event, then PayloadTooShort; with an id that is not in the table it is a Frame event, then UnknownRegister with the low
three flag bits. The cache is not written (42_frame_dispatch.md R216, 43_register_decode.md R232, R233, R234). That a frame row, as an
instruction of its own, takes any bytes and any digit string is the model's choice (DESIGN CHOICE, log entry 17). -/
def Obligations.RegisterFramesRejected : Prop :=
  ∀ (rest raw : Bytes) (s : State), ∀ r ∈ registerRows,
    (rest.length < 3 →
      exec (r.2.2 rest raw) s = .next
        { s with trace := s.trace ++ [.evt (.error (.payloadTooShort r.1 (rest.length + 1)))] }) ∧
    (rest.length = 3 →
      exec (r.2.2 rest raw) s = .next
        { s with
          trace := s.trace ++ [.evt (registerFrame r.1 r.2.1 rest raw), .evt (.error (.payloadTooShort r.1 4))] }) ∧
    (4 ≤ rest.length →
      (∀ x ∈ s.cfg.regTable, x.id ≠ BitVec.ofNat 16 (memRead (r.1 :: rest) 1 2)) →
      exec (r.2.2 rest raw) s = .next
        { s with
          trace := s.trace ++ [.evt (registerFrame r.1 r.2.1 rest raw),
            .evt (.error (.unknownRegister (BitVec.ofNat 16 (memRead (r.1 :: rest) 1 2))
              ((rest.getD 2 0).extractLsb' 0 3)))] })

/-- A GET, SET or ASYNC frame of five bytes or more with a known id is a Frame event, its response command DONE for
ASYNC, and then the row of the id's descriptor applied to D, whatever the flags; a value it decodes is set in the cache
with the descriptor's scale (42_frame_dispatch.md R210, R211, R215, 43_register_decode.md R231, R235, R242). That a frame
row, as an instruction of its own, takes any bytes and any digit string is the model's choice (DESIGN CHOICE, log entry
17). -/
def Obligations.RegisterFramesDecode : Prop :=
  ∀ (rest raw : Bytes) (s : State) (x : Descriptor), ∀ r ∈ registerRows,
    4 ≤ rest.length → Config.idsUnique s.cfg.regTable = true → x ∈ s.cfg.regTable →
    x.id = BitVec.ofNat 16 (memRead (r.1 :: rest) 1 2) →
      exec (r.2.2 rest raw) s =
        exec (descriptorInstr x (r.1 :: rest))
          { s with trace := s.trace ++ [.evt (registerFrame r.1 r.2.1 rest raw)] } ∧
      ∀ v : RegValue, decodeValue x.body (r.1 :: rest) = some v →
        exec (r.2.2 rest raw) s =
          .next (({ s with trace := s.trace ++ [.evt (registerFrame r.1 r.2.1 rest raw)] } : State).setRegister
            x.id x.body.scale v)

/-! ### The decode strategies -/

/-- A read of D is little-endian, with D[a] as its least significant byte whatever its width (20_memory.md R76). -/
def Obligations.MemReadIsLittleEndian : Prop :=
  ∀ (d : Bytes) (a : Nat),
    (a + 1 ≤ d.length → memRead d a 1 = (d.getD a 0).toNat) ∧
    (a + 2 ≤ d.length → memRead d a 2 = (d.getD a 0).toNat + 256 * (d.getD (a + 1) 0).toNat) ∧
    (a + 4 ≤ d.length →
      memRead d a 4 = (d.getD a 0).toNat + 256 * (d.getD (a + 1) 0).toNat + 65536 * (d.getD (a + 2) 0).toNat +
        16777216 * (d.getD (a + 3) 0).toNat ∧
      memRead d a 4 % 65536 = memRead d a 2)

/-- ScalarNumeric stores the raw unsigned value with the scale beside it, or is PayloadTooShort
(43_register_decode.md R236). That the row takes a buffer of any length, 0 and above 512 bytes included, with command 0
where it is empty, is the model's choice (DESIGN CHOICE, log entry 16). -/
def Obligations.ScalarNumericStoresRaw : Prop :=
  ∀ (id : RegId) (w : Width) (sc : Scale) (d : Bytes) (s : State),
    exec (.descScalarNumeric id w sc d) s = .next
      (if d.length < 4 + w.bytes then
        { s with trace := s.trace ++ [.evt (.error (.payloadTooShort (d.headD 0) d.length))] }
       else s.setRegister id sc (.number (memRead d 4 w.bytes)))

/-- BitFlags stores the set of bit positions 0..30 of the raw value, or is PayloadTooShort
(43_register_decode.md R237). That the row takes a buffer of any length, 0 and above 512 bytes included, with command 0
where it is empty, is the model's choice (DESIGN CHOICE, log entry 16). -/
def Obligations.BitFlagsStoresTheSet : Prop :=
  ∀ (id : RegId) (w : Width) (sc : Scale) (d : Bytes) (s : State),
    (d.length < 4 + w.bytes →
      exec (.descBitFlags id w sc d) s = .next
        { s with trace := s.trace ++ [.evt (.error (.payloadTooShort (d.headD 0) d.length))] }) ∧
    (4 + w.bytes ≤ d.length → ∃ m : BitVec 31,
      exec (.descBitFlags id w sc d) s = .next (s.setRegister id sc (.str (.flagSet m))) ∧
      m.toNat = memRead d 4 w.bytes &&& 0x7FFFFFFF ∧
      ∀ n : Nat, n < 31 → m.getLsbD n = (memRead d 4 w.bytes).testBit n)

/-- Enum stores the label of the raw value, or the number where the map has none, or is PayloadTooShort
(43_register_decode.md R238). R238 has a finite map: that the map is a list in which the first entry for a raw value
counts is the model's choice (DESIGN CHOICE, log entry 5). That the row takes a buffer of any length, 0 and above 512
bytes included, with command 0 where it is empty, is the model's choice too (DESIGN CHOICE, log entry 16). -/
def Obligations.EnumStoresTheLabel : Prop :=
  ∀ (id : RegId) (w : Width) (sc : Scale) (m : List EnumEntry) (d : Bytes) (s : State),
    (d.length < 4 + w.bytes →
      exec (.descEnum id w sc m d) s = .next
        { s with trace := s.trace ++ [.evt (.error (.payloadTooShort (d.headD 0) d.length))] }) ∧
    (4 + w.bytes ≤ d.length →
      (∀ (pre post : List EnumEntry) (e : EnumEntry), m = pre ++ e :: post →
        e.raw.toNat = memRead d 4 w.bytes → (∀ x ∈ pre, x.raw.toNat ≠ memRead d 4 w.bytes) →
        exec (.descEnum id w sc m d) s = .next (s.setRegister id sc (.str (.enumLabel e.label)))) ∧
      ((∀ x ∈ m, x.raw.toNat ≠ memRead d 4 w.bytes) →
        exec (.descEnum id w sc m d) s = .next (s.setRegister id sc (.number (memRead d 4 w.bytes)))))

/-- CompositeRecord stores the version byte and then the listed fields, each read where the one before it ended; too few
bytes for all of them is PayloadTooShort and nothing is stored (43_register_decode.md R239). That the row takes a buffer
of any length, 0 and above 512 bytes included, with command 0 where it is empty, is the model's choice (DESIGN CHOICE,
log entry 16). -/
def Obligations.CompositeRecordStoresFields : Prop :=
  ∀ (id : RegId) (w : Width) (sc : Scale) (ws : List Width) (d : Bytes) (s : State),
    (d.length < 5 + (ws.map Width.bytes).sum →
      exec (.descCompositeRecord id w sc ws d) s = .next
        { s with trace := s.trace ++ [.evt (.error (.payloadTooShort (d.headD 0) d.length))] }) ∧
    (5 + (ws.map Width.bytes).sum ≤ d.length → ∃ fs : List (Width × Nat),
      exec (.descCompositeRecord id w sc ws d) s = .next (s.setRegister id sc (.composite fs)) ∧
      fs.map Prod.fst = .u8 :: ws ∧
      ∀ (pre post : List (Width × Nat)) (f : Width × Nat), fs = pre ++ f :: post →
        f.2 = memRead d (4 + (pre.map fun g => g.1.bytes).sum) f.1.bytes)

/-- RawString stores the value field up to its first NUL (43_register_decode.md R240). That the row takes a buffer of any
length is the model's choice (DESIGN CHOICE, log entry 16): below 5 bytes, where R232 stops a frame with PayloadTooShort
before any strategy, it stores the empty string, and above 512 bytes the whole field counts. -/
def Obligations.RawStringStopsAtNul : Prop :=
  ∀ (id : RegId) (w : Width) (sc : Scale) (d : Bytes) (s : State), ∃ text rest : Bytes,
    exec (.descRawString id w sc d) s = .next (s.setRegister id sc (.str (.bytes text))) ∧
    d.drop 4 = text ++ rest ∧ 0 ∉ text ∧ (rest = [] ∨ ∃ more, rest = 0 :: more)

/-- At reset the table holds the descriptors the spec gives, and the cycle history record needs 51 decoded bytes
(43_register_decode.md R230, R241). The widths and scales are written as the spec's general knowledge has them (log
entry 6), and the open rest of the table is arbitrary (log entry 5). -/
def Obligations.NormativeRegisters : Prop :=
  regFind 0x0104 State.reset.cfg.regTable = some ⟨0x0104, ⟨.u8, 0x3F800000, .scalarNumeric⟩⟩ ∧
  regFind 0xEDD5 State.reset.cfg.regTable = some ⟨0xEDD5, ⟨.u16, 0x3C23D70A, .scalarNumeric⟩⟩ ∧
  (∃ x : DescBody, regFind 0x0201 State.reset.cfg.regTable = some ⟨0x0201, x⟩) ∧
  ∃ x : DescBody, regFind 0x1070 State.reset.cfg.regTable = some ⟨0x1070, x⟩ ∧ x.scale = 0x3F800000 ∧
    x.kind = .compositeRecord (List.replicate 10 .u32 ++ [.u16, .u16, .u8, .u8]) ∧
    ∀ d : Bytes, (decodeValue x d).isSome = true ↔ 51 ≤ d.length

/-! ### The register cache, the text classifier and the pacing -/

/-- SetRegister writes and notifies unless the entry is valid with the same scale and value, and touches no other entry;
equal calls in a row are one call (44_register_cache.md R261, R263). -/
def Obligations.SetRegisterNotifiesOnChange : Prop :=
  ∀ (id : RegId) (sc : Scale) (v : RegValue) (s : State),
    (cacheFind id s.cache = some ⟨sc, v, true⟩ → s.setRegister id sc v = s) ∧
    (cacheFind id s.cache ≠ some ⟨sc, v, true⟩ → ∃ c : Cache,
      s.setRegister id sc v = { s with cache := c, trace := s.trace ++ [.evt (.cacheChange id sc v)] } ∧
      cacheFind id c = some ⟨sc, v, true⟩ ∧ ∀ j : RegId, j ≠ id → cacheFind j c = cacheFind j s.cache) ∧
    ∀ n : Nat, (fun t : State => t.setRegister id sc v)^[n + 1] s = s.setRegister id sc v

/-- The classifier sets the register of an exactly matching label, with the number or the bytes of the value; a label
without an entry and a value that is no number write nothing (44_register_cache.md R270, R272, R273, R274). R270 has a
finite map: that TEXT_MAP is a list in which the first entry of a repeated label counts is the model's choice (DESIGN
CHOICE, log entry 5). -/
def Obligations.TextClassifierSetsTheRegister : Prop :=
  ∀ (label value : Bytes) (s : State),
    (∀ (pre post : List TextEntry) (m : TextEntry), s.cfg.textMap = pre ++ m :: post → m.label = label →
      (∀ x ∈ pre, x.label ≠ label) →
      (m.parse = .decimal →
        s.textClassify label value = (parseDec value).elim s fun k => s.setRegister m.id m.scale (.number k)) ∧
      (m.parse = .text → s.textClassify label value = s.setRegister m.id m.scale (.str (.bytes value)))) ∧
    ((∀ x ∈ s.cfg.textMap, x.label ≠ label) → s.textClassify label value = s)

/-- ParseDec accepts exactly an optional minus sign and one or more digits, and answers the integer they denote
(44_register_cache.md R271). -/
def Obligations.ParseDecAcceptsIntegers : Prop :=
  (∀ ds : Bytes, ds ≠ [] → (∀ b ∈ ds, 0x30 ≤ b ∧ b ≤ 0x39) →
    parseDec ds = some ((Nat.ofDigits 10 (ds.map fun b => b.toNat - 48).reverse : Nat) : Int) ∧
    parseDec (0x2D :: ds) = some (-((Nat.ofDigits 10 (ds.map fun b => b.toNat - 48).reverse : Nat) : Int))) ∧
  ∀ v : Bytes, parseDec v ≠ none →
    ∃ ds : Bytes, ds ≠ [] ∧ (∀ b ∈ ds, 0x30 ≤ b ∧ b ≤ 0x39) ∧ (v = ds ∨ v = 0x2D :: ds)

/-- BurstCount: a counted label raises the saturating count, and at the threshold, which is at least 1, one queued entry
is encoded onto TX and the count starts anew (45_tx_and_control.md R293, R294). -/
def Obligations.BurstCountDrainsTheQueue : Prop :=
  ∀ (label : Bytes) (s : State),
    (label ∉ s.cfg.burstLabels → s.burstCount label = s) ∧
    (label ∈ s.cfg.burstLabels → ∀ n : Nat, n = min (s.bcnt.toNat + 1) 255 →
      (n < max s.bthr.toNat 1 ∨ s.txq = [] → s.burstCount label = { s with bcnt := BitVec.ofNat 8 n }) ∧
      (∀ (e : Bytes) (q : List Bytes), s.txq = e :: q → max s.bthr.toNat 1 ≤ n →
        s.burstCount label =
          { s with txq := q, bcnt := 0, trace := s.trace ++ [.tx (encodeFrame e)] }))

/-- Only the end of a counted text field transmits, and it transmits the oldest queued entry whole
(45_tx_and_control.md R294, R310). -/
def Obligations.OnlyCountedTextFieldsTransmit : Prop :=
  ∀ (i : Instr) (s t : State), exec i s = .next t → t.tx ≠ s.tx →
    (i = .byteCr ∨ i = .byteLf ∨ i = .rxByte 0x0D ∨ i = .rxByte 0x0A) ∧ s.parser.ps = .readingValue ∧
    s.parser.lbuf ∈ s.cfg.burstLabels ∧
    ∃ (e : Bytes) (q : List Bytes), s.txq = e :: q ∧ t.txq = q ∧ t.bcnt = 0 ∧ t.tx = s.tx ++ encodeFrame e

/-! ### Events and errors -/

/-- An event row appends that event and changes nothing else (00_scope.md R16, 30_encoding.md R121). An error row appends
its Error event and leaves the parser in Idle with empty buffers; it changes nothing else (60_exceptions.md R320, R323).
That a row of these tables is an instruction of its own is the model's choice (log entry 4), that it takes any contents
and any info is too (DESIGN CHOICE, log entry 17), and that an error row sets the parser is its reading of the table (log
entry 14). -/
def Obligations.EventAndErrorRowsAppend : Prop :=
  ∀ s : State,
    (∀ label value : Bytes,
      exec (.evtTextField label value) s = .next { s with trace := s.trace ++ [.evt (.textField label value)] }) ∧
    (∀ f : FrameEvent, exec (.evtFrame f) s = .next { s with trace := s.trace ++ [.evt (.frame f)] }) ∧
    (∀ e : BlockError, exec (.evtError e) s = .next { s with trace := s.trace ++ [.evt (.error e)] }) ∧
    (∀ (id : RegId) (sc : Scale) (v : RegValue),
      exec (.evtCacheChange id sc v) s = .next { s with trace := s.trace ++ [.evt (.cacheChange id sc v)] }) ∧
    (∀ e : BlockError, exec (errorInstr e) s = .next
      { s with parser := ⟨.idle, [], [], []⟩, trace := s.trace ++ [.evt (.error e)] }) ∧
    (∀ raw : Bytes, errorInstr (.checksumMismatch raw) = .errChecksumMismatch raw) ∧
    (∀ b : Byte, errorInstr (.invalidLabelChar b) = .errInvalidLabelChar b) ∧
    errorInstr .labelTooLong = .errLabelTooLong ∧
    (∀ (id : RegId) (r : BitVec 3), errorInstr (.unknownRegister id r) = .errUnknownRegister id r) ∧
    ∀ (cmd : Byte) (n : Nat), errorInstr (.payloadTooShort cmd n) = .errPayloadTooShort cmd n

/-! ### Instances -/

/-- An operation on one link of a bridge leaves the other instance as it is, and operations on the two links commute
(10_state.md R50, 60_exceptions.md R335). -/
def Obligations.BridgeLinksAreIndependent : Prop :=
  ∀ (b : Bridge) (i j : Instr), ∃ bi bj both : Bridge,
    b.exec .charger i = .next bi ∧ bi.gateway = b.gateway ∧ exec i b.charger = .next bi.charger ∧
    b.exec .gateway j = .next bj ∧ bj.charger = b.charger ∧ exec j b.gateway = .next bj.gateway ∧
    bi.exec .gateway j = .next both ∧ bj.exec .charger i = .next both

/-- An instance is built exactly when every item of its configuration is as R353 and R111 require; its table is the
typed form of the raw one, descriptor by descriptor in order, its other items are those handed over, and it starts in
the state after RESET (30_encoding.md R111, 70_reset_and_hazards.md R350, R353). A `map` or `fields` given on the wrong
kind, empty or not, is refused. That an Enum without `map` has the empty map, and a CompositeRecord without `fields` no
field after its version byte, is the model's choice (DESIGN CHOICE, log entry 5), and so is that nothing asks for the
entries and labels that R10, R230 and R270 pin (DESIGN CHOICE, log entry 18). -/
def Obligations.BuildRefusesIllFormed : Prop :=
  ∀ r : RawCfg,
    ((∃ s, build r = .ok s) ↔
      ((∀ x ∈ r.regTable, x.kind ≤ 4 ∧ x.width ∈ [1, 2, 4] ∧ (x.kind ≠ 2 → x.map = none) ∧
          (x.kind ≠ 3 → x.fields = none) ∧ ∀ ws ∈ x.fields, ∀ w ∈ ws, w ∈ [1, 2, 4]) ∧
        (r.regTable.map (·.id)).Nodup ∧ (∀ l ∈ r.burstLabels, 1 ≤ l.length ∧ l.length ≤ 9) ∧
        r.hexCap % 2 = 1 ∧ 3 ≤ r.hexCap ∧ 1 ≤ r.queueDepth ∧ r.queueDepth ≤ 65535)) ∧
    ∀ s, build r = .ok s →
      s = State.ofCfg s.cfg ∧ List.Forall₂ TypedForm r.regTable s.cfg.regTable ∧ s.cfg.textMap = r.textMap ∧
      s.cfg.burstLabels = r.burstLabels ∧ s.cfg.hexCap = r.hexCap ∧ s.cfg.queueDepth = r.queueDepth ∧
      s.cfg.oddDigitPolicy = r.oddDigitPolicy

/-! ### The invariant -/

/-- From every state that meets the invariant, not only runs from reset, a step leads to one that meets it: the buffers
hold what they may hold in each parser state (10_state.md R35-R38), the cache has its one form (R39, log entry 10) and
the queue is bounded (R40). -/
def Obligations.StepKeepsTheInvariant : Prop :=
  ∀ s t : State, s.Inv → step s = .next t → t.Inv

/-- The state after reset meets the invariant (10_state.md R38, 70_reset_and_hazards.md R350). -/
def Obligations.ResetMeetsTheInvariant : Prop := State.reset.Inv
end

