-- ==== Sys2Proof/Laws/State.lean ====
section
/-! SUPPORT. One lemma per field per update of the state: what a named operation does to each field, true by rfl, so
that no proof unfolds a record update. The operations with cases have their unchanged fields here too. -/

namespace Sys2Proof.Machine

variable (s : State)

@[simp] theorem State.out_parser (o : Output) : (s.out o).parser = s.parser := rfl
@[simp] theorem State.out_cache (o : Output) : (s.out o).cache = s.cache := rfl
@[simp] theorem State.out_txq (o : Output) : (s.out o).txq = s.txq := rfl
@[simp] theorem State.out_bcnt (o : Output) : (s.out o).bcnt = s.bcnt := rfl
@[simp] theorem State.out_echoEn (o : Output) : (s.out o).echoEn = s.echoEn := rfl
@[simp] theorem State.out_hexStrict (o : Output) : (s.out o).hexStrict = s.hexStrict := rfl
@[simp] theorem State.out_bthr (o : Output) : (s.out o).bthr = s.bthr := rfl
@[simp] theorem State.out_trace (o : Output) : (s.out o).trace = s.trace ++ [o] := rfl
@[simp] theorem State.out_result (o : Output) : (s.out o).result = s.result := rfl
@[simp] theorem State.out_pending (o : Output) : (s.out o).pending = s.pending := rfl
@[simp] theorem State.out_cfg (o : Output) : (s.out o).cfg = s.cfg := rfl

@[simp] theorem State.emit_parser (e : Event) : (s.emit e).parser = s.parser := rfl
@[simp] theorem State.emit_cache (e : Event) : (s.emit e).cache = s.cache := rfl
@[simp] theorem State.emit_txq (e : Event) : (s.emit e).txq = s.txq := rfl
@[simp] theorem State.emit_bcnt (e : Event) : (s.emit e).bcnt = s.bcnt := rfl
@[simp] theorem State.emit_echoEn (e : Event) : (s.emit e).echoEn = s.echoEn := rfl
@[simp] theorem State.emit_hexStrict (e : Event) : (s.emit e).hexStrict = s.hexStrict := rfl
@[simp] theorem State.emit_bthr (e : Event) : (s.emit e).bthr = s.bthr := rfl
@[simp] theorem State.emit_trace (e : Event) : (s.emit e).trace = s.trace ++ [.evt e] := rfl
@[simp] theorem State.emit_result (e : Event) : (s.emit e).result = s.result := rfl
@[simp] theorem State.emit_pending (e : Event) : (s.emit e).pending = s.pending := rfl
@[simp] theorem State.emit_cfg (e : Event) : (s.emit e).cfg = s.cfg := rfl

@[simp] theorem State.echoByte_parser (b : Byte) : (s.echoByte b).parser = s.parser := rfl
@[simp] theorem State.echoByte_cache (b : Byte) : (s.echoByte b).cache = s.cache := rfl
@[simp] theorem State.echoByte_txq (b : Byte) : (s.echoByte b).txq = s.txq := rfl
@[simp] theorem State.echoByte_bcnt (b : Byte) : (s.echoByte b).bcnt = s.bcnt := rfl
@[simp] theorem State.echoByte_echoEn (b : Byte) : (s.echoByte b).echoEn = s.echoEn := rfl
@[simp] theorem State.echoByte_hexStrict (b : Byte) : (s.echoByte b).hexStrict = s.hexStrict := rfl
@[simp] theorem State.echoByte_bthr (b : Byte) : (s.echoByte b).bthr = s.bthr := rfl
@[simp] theorem State.echoByte_trace (b : Byte) : (s.echoByte b).trace = s.trace ++ [.echo b] := rfl
@[simp] theorem State.echoByte_result (b : Byte) : (s.echoByte b).result = s.result := rfl
@[simp] theorem State.echoByte_pending (b : Byte) : (s.echoByte b).pending = s.pending := rfl
@[simp] theorem State.echoByte_cfg (b : Byte) : (s.echoByte b).cfg = s.cfg := rfl

@[simp] theorem State.send_parser (bs : Bytes) : (s.send bs).parser = s.parser := rfl
@[simp] theorem State.send_cache (bs : Bytes) : (s.send bs).cache = s.cache := rfl
@[simp] theorem State.send_txq (bs : Bytes) : (s.send bs).txq = s.txq := rfl
@[simp] theorem State.send_bcnt (bs : Bytes) : (s.send bs).bcnt = s.bcnt := rfl
@[simp] theorem State.send_echoEn (bs : Bytes) : (s.send bs).echoEn = s.echoEn := rfl
@[simp] theorem State.send_hexStrict (bs : Bytes) : (s.send bs).hexStrict = s.hexStrict := rfl
@[simp] theorem State.send_bthr (bs : Bytes) : (s.send bs).bthr = s.bthr := rfl
@[simp] theorem State.send_trace (bs : Bytes) : (s.send bs).trace = s.trace ++ [.tx bs] := rfl
@[simp] theorem State.send_result (bs : Bytes) : (s.send bs).result = s.result := rfl
@[simp] theorem State.send_pending (bs : Bytes) : (s.send bs).pending = s.pending := rfl
@[simp] theorem State.send_cfg (bs : Bytes) : (s.send bs).cfg = s.cfg := rfl

@[simp] theorem State.raise_parser (e : BlockError) : (s.raise e).parser = s.parser := rfl
@[simp] theorem State.raise_cache (e : BlockError) : (s.raise e).cache = s.cache := rfl
@[simp] theorem State.raise_txq (e : BlockError) : (s.raise e).txq = s.txq := rfl
@[simp] theorem State.raise_bcnt (e : BlockError) : (s.raise e).bcnt = s.bcnt := rfl
@[simp] theorem State.raise_echoEn (e : BlockError) : (s.raise e).echoEn = s.echoEn := rfl
@[simp] theorem State.raise_hexStrict (e : BlockError) : (s.raise e).hexStrict = s.hexStrict := rfl
@[simp] theorem State.raise_bthr (e : BlockError) : (s.raise e).bthr = s.bthr := rfl
@[simp] theorem State.raise_trace (e : BlockError) : (s.raise e).trace = s.trace ++ [.evt (.error e)] := rfl
@[simp] theorem State.raise_result (e : BlockError) : (s.raise e).result = s.result := rfl
@[simp] theorem State.raise_pending (e : BlockError) : (s.raise e).pending = s.pending := rfl
@[simp] theorem State.raise_cfg (e : BlockError) : (s.raise e).cfg = s.cfg := rfl

@[simp] theorem State.takeError_parser (e : BlockError) : (s.takeError e).parser = Parser.start := rfl
@[simp] theorem State.takeError_cache (e : BlockError) : (s.takeError e).cache = s.cache := rfl
@[simp] theorem State.takeError_txq (e : BlockError) : (s.takeError e).txq = s.txq := rfl
@[simp] theorem State.takeError_bcnt (e : BlockError) : (s.takeError e).bcnt = s.bcnt := rfl
@[simp] theorem State.takeError_echoEn (e : BlockError) : (s.takeError e).echoEn = s.echoEn := rfl
@[simp] theorem State.takeError_hexStrict (e : BlockError) : (s.takeError e).hexStrict = s.hexStrict := rfl
@[simp] theorem State.takeError_bthr (e : BlockError) : (s.takeError e).bthr = s.bthr := rfl
@[simp] theorem State.takeError_trace (e : BlockError) : (s.takeError e).trace = s.trace ++ [.evt (.error e)] := rfl
@[simp] theorem State.takeError_result (e : BlockError) : (s.takeError e).result = s.result := rfl
@[simp] theorem State.takeError_pending (e : BlockError) : (s.takeError e).pending = s.pending := rfl
@[simp] theorem State.takeError_cfg (e : BlockError) : (s.takeError e).cfg = s.cfg := rfl

@[simp] theorem State.withResult_parser (r : Option HostResult) : (s.withResult r).parser = s.parser := rfl
@[simp] theorem State.withResult_cache (r : Option HostResult) : (s.withResult r).cache = s.cache := rfl
@[simp] theorem State.withResult_txq (r : Option HostResult) : (s.withResult r).txq = s.txq := rfl
@[simp] theorem State.withResult_bcnt (r : Option HostResult) : (s.withResult r).bcnt = s.bcnt := rfl
@[simp] theorem State.withResult_echoEn (r : Option HostResult) : (s.withResult r).echoEn = s.echoEn := rfl
@[simp] theorem State.withResult_hexStrict (r : Option HostResult) : (s.withResult r).hexStrict = s.hexStrict := rfl
@[simp] theorem State.withResult_bthr (r : Option HostResult) : (s.withResult r).bthr = s.bthr := rfl
@[simp] theorem State.withResult_trace (r : Option HostResult) : (s.withResult r).trace = s.trace := rfl
@[simp] theorem State.withResult_result (r : Option HostResult) : (s.withResult r).result = r := rfl
@[simp] theorem State.withResult_pending (r : Option HostResult) : (s.withResult r).pending = s.pending := rfl
@[simp] theorem State.withResult_cfg (r : Option HostResult) : (s.withResult r).cfg = s.cfg := rfl

@[simp] theorem State.resetAll_parser : s.resetAll.parser = Parser.start := rfl
@[simp] theorem State.resetAll_cache : s.resetAll.cache = [] := rfl
@[simp] theorem State.resetAll_txq : s.resetAll.txq = [] := rfl
@[simp] theorem State.resetAll_bcnt : s.resetAll.bcnt = 0 := rfl
@[simp] theorem State.resetAll_echoEn : s.resetAll.echoEn = false := rfl
@[simp] theorem State.resetAll_hexStrict : s.resetAll.hexStrict = false := rfl
@[simp] theorem State.resetAll_bthr : s.resetAll.bthr = Config.bthrReset := rfl
@[simp] theorem State.resetAll_trace : s.resetAll.trace = s.trace := rfl
@[simp] theorem State.resetAll_result : s.resetAll.result = s.result := rfl
@[simp] theorem State.resetAll_pending : s.resetAll.pending = s.pending := rfl
@[simp] theorem State.resetAll_cfg : s.resetAll.cfg = s.cfg := rfl

@[simp] theorem State.resetSession_parser : s.resetSession.parser = Parser.start := rfl
@[simp] theorem State.resetSession_cache : s.resetSession.cache = [] := rfl
@[simp] theorem State.resetSession_txq : s.resetSession.txq = s.txq := rfl
@[simp] theorem State.resetSession_bcnt : s.resetSession.bcnt = 0 := rfl
@[simp] theorem State.resetSession_echoEn : s.resetSession.echoEn = s.echoEn := rfl
@[simp] theorem State.resetSession_hexStrict : s.resetSession.hexStrict = s.hexStrict := rfl
@[simp] theorem State.resetSession_bthr : s.resetSession.bthr = s.bthr := rfl
@[simp] theorem State.resetSession_trace : s.resetSession.trace = s.trace := rfl
@[simp] theorem State.resetSession_result : s.resetSession.result = s.result := rfl
@[simp] theorem State.resetSession_pending : s.resetSession.pending = s.pending := rfl
@[simp] theorem State.resetSession_cfg : s.resetSession.cfg = s.cfg := rfl

@[simp] theorem State.issueFirst_parser (r : Request) : (s.issueFirst r).parser = s.parser := rfl
@[simp] theorem State.issueFirst_cache (r : Request) : (s.issueFirst r).cache = s.cache := rfl
@[simp] theorem State.issueFirst_txq (r : Request) : (s.issueFirst r).txq = s.txq := rfl
@[simp] theorem State.issueFirst_bcnt (r : Request) : (s.issueFirst r).bcnt = s.bcnt := rfl
@[simp] theorem State.issueFirst_echoEn (r : Request) : (s.issueFirst r).echoEn = s.echoEn := rfl
@[simp] theorem State.issueFirst_hexStrict (r : Request) : (s.issueFirst r).hexStrict = s.hexStrict := rfl
@[simp] theorem State.issueFirst_bthr (r : Request) : (s.issueFirst r).bthr = s.bthr := rfl
@[simp] theorem State.issueFirst_trace (r : Request) : (s.issueFirst r).trace = s.trace := rfl
@[simp] theorem State.issueFirst_result (r : Request) : (s.issueFirst r).result = s.result := rfl
@[simp] theorem State.issueFirst_pending (r : Request) : (s.issueFirst r).pending = r :: s.pending := rfl
@[simp] theorem State.issueFirst_cfg (r : Request) : (s.issueFirst r).cfg = s.cfg := rfl

/-! ### Operations with cases: the fields they never write -/

@[simp] theorem State.setRegister_parser (id : RegId) (sc : Scale) (v : RegValue) : (s.setRegister id sc v).parser = s.parser := by
  unfold State.setRegister; split <;> rfl

@[simp] theorem State.setRegister_txq (id : RegId) (sc : Scale) (v : RegValue) : (s.setRegister id sc v).txq = s.txq := by
  unfold State.setRegister; split <;> rfl

@[simp] theorem State.setRegister_bcnt (id : RegId) (sc : Scale) (v : RegValue) : (s.setRegister id sc v).bcnt = s.bcnt := by
  unfold State.setRegister; split <;> rfl

@[simp] theorem State.setRegister_echoEn (id : RegId) (sc : Scale) (v : RegValue) : (s.setRegister id sc v).echoEn = s.echoEn := by
  unfold State.setRegister; split <;> rfl

@[simp] theorem State.setRegister_hexStrict (id : RegId) (sc : Scale) (v : RegValue) : (s.setRegister id sc v).hexStrict = s.hexStrict := by
  unfold State.setRegister; split <;> rfl

@[simp] theorem State.setRegister_bthr (id : RegId) (sc : Scale) (v : RegValue) : (s.setRegister id sc v).bthr = s.bthr := by
  unfold State.setRegister; split <;> rfl

@[simp] theorem State.setRegister_result (id : RegId) (sc : Scale) (v : RegValue) : (s.setRegister id sc v).result = s.result := by
  unfold State.setRegister; split <;> rfl

@[simp] theorem State.setRegister_pending (id : RegId) (sc : Scale) (v : RegValue) : (s.setRegister id sc v).pending = s.pending := by
  unfold State.setRegister; split <;> rfl

@[simp] theorem State.setRegister_cfg (id : RegId) (sc : Scale) (v : RegValue) : (s.setRegister id sc v).cfg = s.cfg := by
  unfold State.setRegister; split <;> rfl

@[simp] theorem State.invalidate_parser (id : RegId) : (s.invalidate id).parser = s.parser := by
  unfold State.invalidate; split <;> rfl

@[simp] theorem State.invalidate_txq (id : RegId) : (s.invalidate id).txq = s.txq := by
  unfold State.invalidate; split <;> rfl

@[simp] theorem State.invalidate_bcnt (id : RegId) : (s.invalidate id).bcnt = s.bcnt := by
  unfold State.invalidate; split <;> rfl

@[simp] theorem State.invalidate_echoEn (id : RegId) : (s.invalidate id).echoEn = s.echoEn := by
  unfold State.invalidate; split <;> rfl

@[simp] theorem State.invalidate_hexStrict (id : RegId) : (s.invalidate id).hexStrict = s.hexStrict := by
  unfold State.invalidate; split <;> rfl

@[simp] theorem State.invalidate_bthr (id : RegId) : (s.invalidate id).bthr = s.bthr := by
  unfold State.invalidate; split <;> rfl

@[simp] theorem State.invalidate_trace (id : RegId) : (s.invalidate id).trace = s.trace := by
  unfold State.invalidate; split <;> rfl

@[simp] theorem State.invalidate_result (id : RegId) : (s.invalidate id).result = s.result := by
  unfold State.invalidate; split <;> rfl

@[simp] theorem State.invalidate_pending (id : RegId) : (s.invalidate id).pending = s.pending := by
  unfold State.invalidate; split <;> rfl

@[simp] theorem State.invalidate_cfg (id : RegId) : (s.invalidate id).cfg = s.cfg := by
  unfold State.invalidate; split <;> rfl

@[simp] theorem State.textClassify_parser (l v : Bytes) : (s.textClassify l v).parser = s.parser := by
  unfold State.textClassify; repeat (first | rfl | split | simp)

@[simp] theorem State.textClassify_txq (l v : Bytes) : (s.textClassify l v).txq = s.txq := by
  unfold State.textClassify; repeat (first | rfl | split | simp)

@[simp] theorem State.textClassify_bcnt (l v : Bytes) : (s.textClassify l v).bcnt = s.bcnt := by
  unfold State.textClassify; repeat (first | rfl | split | simp)

@[simp] theorem State.textClassify_echoEn (l v : Bytes) : (s.textClassify l v).echoEn = s.echoEn := by
  unfold State.textClassify; repeat (first | rfl | split | simp)

@[simp] theorem State.textClassify_hexStrict (l v : Bytes) : (s.textClassify l v).hexStrict = s.hexStrict := by
  unfold State.textClassify; repeat (first | rfl | split | simp)

@[simp] theorem State.textClassify_bthr (l v : Bytes) : (s.textClassify l v).bthr = s.bthr := by
  unfold State.textClassify; repeat (first | rfl | split | simp)

@[simp] theorem State.textClassify_result (l v : Bytes) : (s.textClassify l v).result = s.result := by
  unfold State.textClassify; repeat (first | rfl | split | simp)

@[simp] theorem State.textClassify_pending (l v : Bytes) : (s.textClassify l v).pending = s.pending := by
  unfold State.textClassify; repeat (first | rfl | split | simp)

@[simp] theorem State.textClassify_cfg (l v : Bytes) : (s.textClassify l v).cfg = s.cfg := by
  unfold State.textClassify; repeat (first | rfl | split | simp)

/-- What the drain test changes: the queue, the count and the trace, nothing else. -/
@[simp] theorem State.drain_parser : s.drain.parser = s.parser := by
  unfold State.drain; repeat (first | rfl | split)

@[simp] theorem State.drain_cache : s.drain.cache = s.cache := by
  unfold State.drain; repeat (first | rfl | split)

@[simp] theorem State.drain_echoEn : s.drain.echoEn = s.echoEn := by
  unfold State.drain; repeat (first | rfl | split)

@[simp] theorem State.drain_hexStrict : s.drain.hexStrict = s.hexStrict := by
  unfold State.drain; repeat (first | rfl | split)

@[simp] theorem State.drain_bthr : s.drain.bthr = s.bthr := by
  unfold State.drain; repeat (first | rfl | split)

@[simp] theorem State.drain_result : s.drain.result = s.result := by
  unfold State.drain; repeat (first | rfl | split)

@[simp] theorem State.drain_pending : s.drain.pending = s.pending := by
  unfold State.drain; repeat (first | rfl | split)

@[simp] theorem State.drain_cfg : s.drain.cfg = s.cfg := by
  unfold State.drain; repeat (first | rfl | split)

@[simp] theorem State.burstCount_parser (l : Bytes) : (s.burstCount l).parser = s.parser := by
  unfold State.burstCount; split <;> simp

@[simp] theorem State.burstCount_cache (l : Bytes) : (s.burstCount l).cache = s.cache := by
  unfold State.burstCount; split <;> simp

@[simp] theorem State.burstCount_echoEn (l : Bytes) : (s.burstCount l).echoEn = s.echoEn := by
  unfold State.burstCount; split <;> simp

@[simp] theorem State.burstCount_hexStrict (l : Bytes) : (s.burstCount l).hexStrict = s.hexStrict := by
  unfold State.burstCount; split <;> simp

@[simp] theorem State.burstCount_bthr (l : Bytes) : (s.burstCount l).bthr = s.bthr := by
  unfold State.burstCount; split <;> simp

@[simp] theorem State.burstCount_result (l : Bytes) : (s.burstCount l).result = s.result := by
  unfold State.burstCount; split <;> simp

@[simp] theorem State.burstCount_pending (l : Bytes) : (s.burstCount l).pending = s.pending := by
  unfold State.burstCount; split <;> simp

@[simp] theorem State.burstCount_cfg (l : Bytes) : (s.burstCount l).cfg = s.cfg := by
  unfold State.burstCount; split <;> simp

@[simp] theorem State.applyDecoded_parser (id : RegId) (sc : Scale) (d : Bytes) (r : Option RegValue) : (s.applyDecoded id sc d r).parser = s.parser := by
  unfold State.applyDecoded; split <;> simp

@[simp] theorem State.applyDecoded_txq (id : RegId) (sc : Scale) (d : Bytes) (r : Option RegValue) : (s.applyDecoded id sc d r).txq = s.txq := by
  unfold State.applyDecoded; split <;> simp

@[simp] theorem State.applyDecoded_bcnt (id : RegId) (sc : Scale) (d : Bytes) (r : Option RegValue) : (s.applyDecoded id sc d r).bcnt = s.bcnt := by
  unfold State.applyDecoded; split <;> simp

@[simp] theorem State.applyDecoded_echoEn (id : RegId) (sc : Scale) (d : Bytes) (r : Option RegValue) : (s.applyDecoded id sc d r).echoEn = s.echoEn := by
  unfold State.applyDecoded; split <;> simp

@[simp] theorem State.applyDecoded_hexStrict (id : RegId) (sc : Scale) (d : Bytes) (r : Option RegValue) : (s.applyDecoded id sc d r).hexStrict = s.hexStrict := by
  unfold State.applyDecoded; split <;> simp

@[simp] theorem State.applyDecoded_bthr (id : RegId) (sc : Scale) (d : Bytes) (r : Option RegValue) : (s.applyDecoded id sc d r).bthr = s.bthr := by
  unfold State.applyDecoded; split <;> simp

@[simp] theorem State.applyDecoded_result (id : RegId) (sc : Scale) (d : Bytes) (r : Option RegValue) : (s.applyDecoded id sc d r).result = s.result := by
  unfold State.applyDecoded; split <;> simp

@[simp] theorem State.applyDecoded_pending (id : RegId) (sc : Scale) (d : Bytes) (r : Option RegValue) : (s.applyDecoded id sc d r).pending = s.pending := by
  unfold State.applyDecoded; split <;> simp

@[simp] theorem State.applyDecoded_cfg (id : RegId) (sc : Scale) (d : Bytes) (r : Option RegValue) : (s.applyDecoded id sc d r).cfg = s.cfg := by
  unfold State.applyDecoded; split <;> simp

@[simp] theorem State.regDecode_parser (d : Bytes) (id : RegId) (fl : Byte) : (s.regDecode d id fl).parser = s.parser := by
  unfold State.regDecode; repeat (first | split | simp)

@[simp] theorem State.regDecode_txq (d : Bytes) (id : RegId) (fl : Byte) : (s.regDecode d id fl).txq = s.txq := by
  unfold State.regDecode; repeat (first | split | simp)

@[simp] theorem State.regDecode_bcnt (d : Bytes) (id : RegId) (fl : Byte) : (s.regDecode d id fl).bcnt = s.bcnt := by
  unfold State.regDecode; repeat (first | split | simp)

@[simp] theorem State.regDecode_echoEn (d : Bytes) (id : RegId) (fl : Byte) : (s.regDecode d id fl).echoEn = s.echoEn := by
  unfold State.regDecode; repeat (first | split | simp)

@[simp] theorem State.regDecode_hexStrict (d : Bytes) (id : RegId) (fl : Byte) : (s.regDecode d id fl).hexStrict = s.hexStrict := by
  unfold State.regDecode; repeat (first | split | simp)

@[simp] theorem State.regDecode_bthr (d : Bytes) (id : RegId) (fl : Byte) : (s.regDecode d id fl).bthr = s.bthr := by
  unfold State.regDecode; repeat (first | split | simp)

@[simp] theorem State.regDecode_result (d : Bytes) (id : RegId) (fl : Byte) : (s.regDecode d id fl).result = s.result := by
  unfold State.regDecode; repeat (first | split | simp)

@[simp] theorem State.regDecode_pending (d : Bytes) (id : RegId) (fl : Byte) : (s.regDecode d id fl).pending = s.pending := by
  unfold State.regDecode; repeat (first | split | simp)

@[simp] theorem State.regDecode_cfg (d : Bytes) (id : RegId) (fl : Byte) : (s.regDecode d id fl).cfg = s.cfg := by
  unfold State.regDecode; repeat (first | split | simp)

@[simp] theorem State.dispatchReg_parser (d raw : Bytes) : (s.dispatchReg d raw).parser = s.parser := by
  unfold State.dispatchReg; split <;> simp

@[simp] theorem State.dispatchReg_txq (d raw : Bytes) : (s.dispatchReg d raw).txq = s.txq := by
  unfold State.dispatchReg; split <;> simp

@[simp] theorem State.dispatchReg_bcnt (d raw : Bytes) : (s.dispatchReg d raw).bcnt = s.bcnt := by
  unfold State.dispatchReg; split <;> simp

@[simp] theorem State.dispatchReg_echoEn (d raw : Bytes) : (s.dispatchReg d raw).echoEn = s.echoEn := by
  unfold State.dispatchReg; split <;> simp

@[simp] theorem State.dispatchReg_hexStrict (d raw : Bytes) : (s.dispatchReg d raw).hexStrict = s.hexStrict := by
  unfold State.dispatchReg; split <;> simp

@[simp] theorem State.dispatchReg_bthr (d raw : Bytes) : (s.dispatchReg d raw).bthr = s.bthr := by
  unfold State.dispatchReg; split <;> simp

@[simp] theorem State.dispatchReg_result (d raw : Bytes) : (s.dispatchReg d raw).result = s.result := by
  unfold State.dispatchReg; split <;> simp

@[simp] theorem State.dispatchReg_pending (d raw : Bytes) : (s.dispatchReg d raw).pending = s.pending := by
  unfold State.dispatchReg; split <;> simp

@[simp] theorem State.dispatchReg_cfg (d raw : Bytes) : (s.dispatchReg d raw).cfg = s.cfg := by
  unfold State.dispatchReg; split <;> simp

@[simp] theorem State.dispatchPing_parser (d raw : Bytes) : (s.dispatchPing d raw).parser = s.parser := by
  unfold State.dispatchPing; split <;> simp

@[simp] theorem State.dispatchPing_cache (d raw : Bytes) : (s.dispatchPing d raw).cache = s.cache := by
  unfold State.dispatchPing; split <;> simp

@[simp] theorem State.dispatchPing_txq (d raw : Bytes) : (s.dispatchPing d raw).txq = s.txq := by
  unfold State.dispatchPing; split <;> simp

@[simp] theorem State.dispatchPing_bcnt (d raw : Bytes) : (s.dispatchPing d raw).bcnt = s.bcnt := by
  unfold State.dispatchPing; split <;> simp

@[simp] theorem State.dispatchPing_echoEn (d raw : Bytes) : (s.dispatchPing d raw).echoEn = s.echoEn := by
  unfold State.dispatchPing; split <;> simp

@[simp] theorem State.dispatchPing_hexStrict (d raw : Bytes) : (s.dispatchPing d raw).hexStrict = s.hexStrict := by
  unfold State.dispatchPing; split <;> simp

@[simp] theorem State.dispatchPing_bthr (d raw : Bytes) : (s.dispatchPing d raw).bthr = s.bthr := by
  unfold State.dispatchPing; split <;> simp

@[simp] theorem State.dispatchPing_result (d raw : Bytes) : (s.dispatchPing d raw).result = s.result := by
  unfold State.dispatchPing; split <;> simp

@[simp] theorem State.dispatchPing_pending (d raw : Bytes) : (s.dispatchPing d raw).pending = s.pending := by
  unfold State.dispatchPing; split <;> simp

@[simp] theorem State.dispatchPing_cfg (d raw : Bytes) : (s.dispatchPing d raw).cfg = s.cfg := by
  unfold State.dispatchPing; split <;> simp

@[simp] theorem State.dispatchNone_parser (d raw : Bytes) : (s.dispatchNone d raw).parser = s.parser := by
  rfl

@[simp] theorem State.dispatchNone_cache (d raw : Bytes) : (s.dispatchNone d raw).cache = s.cache := by
  rfl

@[simp] theorem State.dispatchNone_txq (d raw : Bytes) : (s.dispatchNone d raw).txq = s.txq := by
  rfl

@[simp] theorem State.dispatchNone_bcnt (d raw : Bytes) : (s.dispatchNone d raw).bcnt = s.bcnt := by
  rfl

@[simp] theorem State.dispatchNone_echoEn (d raw : Bytes) : (s.dispatchNone d raw).echoEn = s.echoEn := by
  rfl

@[simp] theorem State.dispatchNone_hexStrict (d raw : Bytes) : (s.dispatchNone d raw).hexStrict = s.hexStrict := by
  rfl

@[simp] theorem State.dispatchNone_bthr (d raw : Bytes) : (s.dispatchNone d raw).bthr = s.bthr := by
  rfl

@[simp] theorem State.dispatchNone_result (d raw : Bytes) : (s.dispatchNone d raw).result = s.result := by
  rfl

@[simp] theorem State.dispatchNone_pending (d raw : Bytes) : (s.dispatchNone d raw).pending = s.pending := by
  rfl

@[simp] theorem State.dispatchNone_cfg (d raw : Bytes) : (s.dispatchNone d raw).cfg = s.cfg := by
  rfl

@[simp] theorem State.dispatch_parser (d raw : Bytes) : (s.dispatch d raw).parser = s.parser := by
  unfold State.dispatch; split <;> simp

@[simp] theorem State.dispatch_txq (d raw : Bytes) : (s.dispatch d raw).txq = s.txq := by
  unfold State.dispatch; split <;> simp

@[simp] theorem State.dispatch_bcnt (d raw : Bytes) : (s.dispatch d raw).bcnt = s.bcnt := by
  unfold State.dispatch; split <;> simp

@[simp] theorem State.dispatch_echoEn (d raw : Bytes) : (s.dispatch d raw).echoEn = s.echoEn := by
  unfold State.dispatch; split <;> simp

@[simp] theorem State.dispatch_hexStrict (d raw : Bytes) : (s.dispatch d raw).hexStrict = s.hexStrict := by
  unfold State.dispatch; split <;> simp

@[simp] theorem State.dispatch_bthr (d raw : Bytes) : (s.dispatch d raw).bthr = s.bthr := by
  unfold State.dispatch; split <;> simp

@[simp] theorem State.dispatch_result (d raw : Bytes) : (s.dispatch d raw).result = s.result := by
  unfold State.dispatch; split <;> simp

@[simp] theorem State.dispatch_pending (d raw : Bytes) : (s.dispatch d raw).pending = s.pending := by
  unfold State.dispatch; split <;> simp

@[simp] theorem State.dispatch_cfg (d raw : Bytes) : (s.dispatch d raw).cfg = s.cfg := by
  unfold State.dispatch; split <;> simp

@[simp] theorem State.echoIf_parser (c : Bool) (b : Byte) : (s.echoIf c b).parser = s.parser := by
  unfold State.echoIf; split <;> rfl

@[simp] theorem State.echoIf_cache (c : Bool) (b : Byte) : (s.echoIf c b).cache = s.cache := by
  unfold State.echoIf; split <;> rfl

@[simp] theorem State.echoIf_txq (c : Bool) (b : Byte) : (s.echoIf c b).txq = s.txq := by
  unfold State.echoIf; split <;> rfl

@[simp] theorem State.echoIf_bcnt (c : Bool) (b : Byte) : (s.echoIf c b).bcnt = s.bcnt := by
  unfold State.echoIf; split <;> rfl

@[simp] theorem State.echoIf_echoEn (c : Bool) (b : Byte) : (s.echoIf c b).echoEn = s.echoEn := by
  unfold State.echoIf; split <;> rfl

@[simp] theorem State.echoIf_hexStrict (c : Bool) (b : Byte) : (s.echoIf c b).hexStrict = s.hexStrict := by
  unfold State.echoIf; split <;> rfl

@[simp] theorem State.echoIf_bthr (c : Bool) (b : Byte) : (s.echoIf c b).bthr = s.bthr := by
  unfold State.echoIf; split <;> rfl

@[simp] theorem State.echoIf_result (c : Bool) (b : Byte) : (s.echoIf c b).result = s.result := by
  unfold State.echoIf; split <;> rfl

@[simp] theorem State.echoIf_pending (c : Bool) (b : Byte) : (s.echoIf c b).pending = s.pending := by
  unfold State.echoIf; split <;> rfl

@[simp] theorem State.echoIf_cfg (c : Bool) (b : Byte) : (s.echoIf c b).cfg = s.cfg := by
  unfold State.echoIf; split <;> rfl

@[simp] theorem State.follow_parser (ev : ParserEvent) : (s.follow ev).parser = s.parser := by
  unfold State.follow; split <;> simp

@[simp] theorem State.follow_echoEn (ev : ParserEvent) : (s.follow ev).echoEn = s.echoEn := by
  unfold State.follow; split <;> simp

@[simp] theorem State.follow_hexStrict (ev : ParserEvent) : (s.follow ev).hexStrict = s.hexStrict := by
  unfold State.follow; split <;> simp

@[simp] theorem State.follow_bthr (ev : ParserEvent) : (s.follow ev).bthr = s.bthr := by
  unfold State.follow; split <;> simp

@[simp] theorem State.follow_result (ev : ParserEvent) : (s.follow ev).result = s.result := by
  unfold State.follow; split <;> simp

@[simp] theorem State.follow_pending (ev : ParserEvent) : (s.follow ev).pending = s.pending := by
  unfold State.follow; split <;> simp

@[simp] theorem State.follow_cfg (ev : ParserEvent) : (s.follow ev).cfg = s.cfg := by
  unfold State.follow; split <;> simp

@[simp] theorem State.receive_parser (b : Byte) (r : Parser × ParserEvent) : (s.receive b r).parser = r.1 := by
  simp [State.receive]

@[simp] theorem State.receive_result (b : Byte) (r : Parser × ParserEvent) : (s.receive b r).result = none := by
  simp [State.receive]

@[simp] theorem State.receive_echoEn (b : Byte) (r : Parser × ParserEvent) : (s.receive b r).echoEn = s.echoEn := by
  simp [State.receive]

@[simp] theorem State.receive_hexStrict (b : Byte) (r : Parser × ParserEvent) : (s.receive b r).hexStrict = s.hexStrict := by
  simp [State.receive]

@[simp] theorem State.receive_bthr (b : Byte) (r : Parser × ParserEvent) : (s.receive b r).bthr = s.bthr := by
  simp [State.receive]

@[simp] theorem State.receive_pending (b : Byte) (r : Parser × ParserEvent) : (s.receive b r).pending = s.pending := by
  simp [State.receive]

@[simp] theorem State.receive_cfg (b : Byte) (r : Parser × ParserEvent) : (s.receive b r).cfg = s.cfg := by
  simp [State.receive]

end Sys2Proof.Machine
end

