-- ==== Sys2Proof/Laws/Outputs.lean ====
section
/-! SUPPORT. What each named operation appends to the merged trace and to the three streams (spec 10_state.md R46,
20_memory.md R82): one lemma says everything an operation with cases can append. -/

namespace Sys2Proof.Machine

variable (s : State)

@[simp] theorem State.evt_out (o : Output) : (s.out o).evt = s.evt ++ (outputEvent o).toList := by
  cases h : outputEvent o <;> simp [State.evt, State.out, List.filterMap_append, h]

@[simp] theorem State.echo_out (o : Output) : (s.out o).echo = s.echo ++ (outputEcho o).toList := by
  cases h : outputEcho o <;> simp [State.echo, State.out, List.filterMap_append, h]

@[simp] theorem State.tx_out (o : Output) : (s.out o).tx = s.tx ++ outputTx o := by
  simp [State.tx, State.out]

@[simp] theorem State.evt_emit (e : Event) : (s.emit e).evt = s.evt ++ [e] := by simp [State.emit, outputEvent]
@[simp] theorem State.echo_emit (e : Event) : (s.emit e).echo = s.echo := by simp [State.emit, outputEcho]
@[simp] theorem State.tx_emit (e : Event) : (s.emit e).tx = s.tx := by simp [State.emit, outputTx]

@[simp] theorem State.evt_raise (e : BlockError) : (s.raise e).evt = s.evt ++ [.error e] := by simp [State.raise]
@[simp] theorem State.echo_raise (e : BlockError) : (s.raise e).echo = s.echo := by simp [State.raise]
@[simp] theorem State.tx_raise (e : BlockError) : (s.raise e).tx = s.tx := by simp [State.raise]

@[simp] theorem State.evt_echoByte (b : Byte) : (s.echoByte b).evt = s.evt := by simp [State.echoByte, outputEvent]
@[simp] theorem State.echo_echoByte (b : Byte) : (s.echoByte b).echo = s.echo ++ [b] := by
  simp [State.echoByte, outputEcho]
@[simp] theorem State.tx_echoByte (b : Byte) : (s.echoByte b).tx = s.tx := by simp [State.echoByte, outputTx]

@[simp] theorem State.evt_send (bs : Bytes) : (s.send bs).evt = s.evt := by simp [State.send, outputEvent]
@[simp] theorem State.echo_send (bs : Bytes) : (s.send bs).echo = s.echo := by simp [State.send, outputEcho]
@[simp] theorem State.tx_send (bs : Bytes) : (s.send bs).tx = s.tx ++ bs := by simp [State.send, outputTx]

/-- The streams are read off the trace alone. -/
theorem State.evt_of_trace {s t : State} (h : s.trace = t.trace) : s.evt = t.evt := by simp [State.evt, h]
theorem State.echo_of_trace {s t : State} (h : s.trace = t.trace) : s.echo = t.echo := by simp [State.echo, h]
theorem State.tx_of_trace {s t : State} (h : s.trace = t.trace) : s.tx = t.tx := by simp [State.tx, h]

/-- A stream of a longer trace: what it was, then the new part (for EVT, ECHO and TX). -/
theorem State.evt_append {s t : State} {l : List Output} (h : t.trace = s.trace ++ l) :
    t.evt = s.evt ++ l.filterMap outputEvent := by simp [State.evt, h, List.filterMap_append]

theorem State.echo_append {s t : State} {l : List Output} (h : t.trace = s.trace ++ l) :
    t.echo = s.echo ++ l.filterMap outputEcho := by simp [State.echo, h, List.filterMap_append]

theorem State.tx_append {s t : State} {l : List Output} (h : t.trace = s.trace ++ l) :
    t.tx = s.tx ++ l.flatMap outputTx := by simp [State.tx, h]

/-- The one event a set appends, if it changes the entry (44_register_cache.md R261). -/
def setEvents (old : Option CacheEntry) (id : RegId) (sc : Scale) (v : RegValue) : List Event :=
  if setChanges old sc v then [.cacheChange id sc v] else []

/-- Everything a set can do: with a change, the entry is written valid and one CacheChange is appended; without, the
state stays (44_register_cache.md R261). -/
theorem State.setRegister_cases (id : RegId) (sc : Scale) (v : RegValue) :
    (setChanges (cacheFind id s.cache) sc v = true ∧
      s.setRegister id sc v =
        { s with cache := cachePut id ⟨sc, v, true⟩ s.cache, trace := s.trace ++ [.evt (.cacheChange id sc v)] }) ∨
    (setChanges (cacheFind id s.cache) sc v = false ∧ s.setRegister id sc v = s) := by
  unfold State.setRegister
  split
  · exact .inl ⟨‹_›, rfl⟩
  · rename_i h
    exact .inr ⟨Bool.eq_false_iff.mpr h, rfl⟩

theorem State.setRegister_trace (id : RegId) (sc : Scale) (v : RegValue) :
    (s.setRegister id sc v).trace = s.trace ++ (setEvents (cacheFind id s.cache) id sc v).map .evt := by
  rcases s.setRegister_cases id sc v with ⟨h, e⟩ | ⟨h, e⟩ <;> simp [e, setEvents, h]

/-- Everything an invalidation can do (45_tx_and_control.md R298). -/
theorem State.invalidate_cases (id : RegId) :
    (cacheFind id s.cache = none ∧ s.invalidate id = s) ∨
    (∃ e, cacheFind id s.cache = some e ∧
      s.invalidate id = { s with cache := cachePut id { e with valid := false } s.cache }) := by
  unfold State.invalidate
  split
  · exact .inl ⟨‹_›, rfl⟩
  · exact .inr ⟨_, ‹_›, rfl⟩

/-- Everything the text classifier can do: nothing, or one set (44_register_cache.md R270). -/
theorem State.textClassify_cases (l v : Bytes) :
    s.textClassify l v = s ∨
    (∃ m x, textFind l s.cfg.textMap = some m ∧ textValue m.parse v = some x ∧
      s.textClassify l v = s.setRegister m.id m.scale x) := by
  unfold State.textClassify
  split
  · exact .inl rfl
  · split
    · exact .inl rfl
    · exact .inr ⟨_, _, ‹_›, ‹_›, rfl⟩

/-- Everything the drain test can do: nothing, or one transmit of the oldest entry (45_tx_and_control.md R293). -/
theorem State.drain_cases :
    s.drain = s ∨
    (∃ e q, s.txq = e :: q ∧ max s.bthr.toNat 1 ≤ s.bcnt.toNat ∧
      s.drain = { s with txq := q, bcnt := 0, trace := s.trace ++ [.tx (encodeFrame e)] }) := by
  unfold State.drain
  split
  · split
    · exact .inl rfl
    · exact .inr ⟨_, _, ‹_›, ‹_›, rfl⟩
  · exact .inl rfl

/-- Everything the burst counter can do (45_tx_and_control.md R293). -/
theorem State.burstCount_cases (l : Bytes) :
    (l ∉ s.cfg.burstLabels ∧ s.burstCount l = s) ∨
    (l ∈ s.cfg.burstLabels ∧ s.burstCount l = { s with bcnt := satInc s.bcnt }) ∨
    (∃ e q, l ∈ s.cfg.burstLabels ∧ s.txq = e :: q ∧ max s.bthr.toNat 1 ≤ (satInc s.bcnt).toNat ∧
      s.burstCount l = { s with txq := q, bcnt := 0, trace := s.trace ++ [.tx (encodeFrame e)] }) := by
  unfold State.burstCount
  split
  · rcases State.drain_cases { s with bcnt := satInc s.bcnt } with e | ⟨e, q, hq, ht, h⟩
    · exact .inr (.inl ⟨‹_›, e⟩)
    · exact .inr (.inr ⟨e, q, ‹_›, hq, ht, h⟩)
  · exact .inl ⟨‹_›, rfl⟩

/-- Everything a decode strategy's answer can do: one error, or one set (43_register_decode.md R231). -/
theorem State.applyDecoded_cases (id : RegId) (sc : Scale) (d : Bytes) (r : Option RegValue) :
    (r = none ∧ s.applyDecoded id sc d r = s.raise (.payloadTooShort (frameCmd d) d.length)) ∨
    (∃ v, r = some v ∧ s.applyDecoded id sc d r = s.setRegister id sc v) := by
  cases r with
  | none => exact .inl ⟨rfl, rfl⟩
  | some v => exact .inr ⟨v, rfl, rfl⟩

/-- Everything the register decode can do: one error, or one set (43_register_decode.md R231-R233). -/
theorem State.regDecode_cases (d : Bytes) (id : RegId) (fl : Byte) :
    (∃ e, s.regDecode d id fl = s.raise e) ∨
    (∃ x v, regFind id s.cfg.regTable = some x ∧ 5 ≤ d.length ∧ decodeValue x.body d = some v ∧
      s.regDecode d id fl = s.setRegister id x.body.scale v) := by
  unfold State.regDecode
  split
  · exact .inl ⟨_, rfl⟩
  · split
    · exact .inl ⟨_, rfl⟩
    · rename_i x hx
      rcases s.applyDecoded_cases id x.body.scale d (decodeValue x.body d) with ⟨_, e⟩ | ⟨v, hv, e⟩
      · exact .inl ⟨_, e⟩
      · exact .inr ⟨x, v, hx, by omega, hv, e⟩

/-- Everything the dispatch can do: one error, or one Frame event, alone or followed by a register decode
(42_frame_dispatch.md R210). -/
theorem State.dispatch_cases (d raw : Bytes) :
    (∃ e, s.dispatch d raw = s.raise e) ∨
    (∃ f : FrameEvent, f.d = d ∧ f.raw = raw ∧ s.dispatch d raw = s.emit (.frame f)) ∨
    (∃ f : FrameEvent, f.d = d ∧ f.raw = raw ∧
      s.dispatch d raw = (s.emit (.frame f)).regDecode d (frameId d) (frameFlags d)) := by
  unfold State.dispatch
  split
  · unfold State.dispatchReg
    split
    · exact .inl ⟨_, rfl⟩
    · exact .inr (.inr ⟨_, rfl, rfl, rfl⟩)
  · unfold State.dispatchPing
    split
    · exact .inl ⟨_, rfl⟩
    · exact .inr (.inl ⟨_, rfl, rfl, rfl⟩)
  · exact .inr (.inl ⟨_, rfl, rfl, rfl⟩)

end Sys2Proof.Machine
end

