-- ==== Sys2Proof/Laws/Cache.lean ====
section
/-! SUPPORT. The register cache as data (log entry 10): read after write, writes elsewhere, and that every operation
keeps the ids strictly rising, so that equal caches are equal lists. -/

namespace Sys2Proof.Machine

@[simp] theorem cacheFind_put_same (id : RegId) (e : CacheEntry) (c : Cache) :
    cacheFind id (cachePut id e c) = some e := by
  induction c with
  | nil => simp [cachePut, cacheFind]
  | cons x c ih =>
    obtain ⟨k, x⟩ := x
    simp only [cachePut]
    split
    · simp [cacheFind]
    · split
      · simp [cacheFind]
      · rw [cacheFind, if_neg (by exact fun h => ‹¬id = k› h.symm), ih]

theorem cacheFind_put_other {id j : RegId} (h : j ≠ id) (e : CacheEntry) (c : Cache) :
    cacheFind j (cachePut id e c) = cacheFind j c := by
  induction c with
  | nil => simp [cachePut, cacheFind, h.symm]
  | cons x c ih =>
    obtain ⟨k, x⟩ := x
    simp only [cachePut]
    split
    · subst_vars; simp [cacheFind, h.symm]
    · split
      · simp [cacheFind, h.symm]
      · simp [cacheFind, ih]

/-- The ids of an ordered cache, from a lower bound on. -/
def cacheAbove (lo : RegId) (c : Cache) : Prop := cacheWf c = true ∧ ∀ p ∈ c.head?, lo < p.1

theorem cacheWf_cons {k : RegId} {x : CacheEntry} {c : Cache} :
    cacheWf ((k, x) :: c) = true ↔ cacheAbove k c := by
  cases c with
  | nil => simp [cacheWf, cacheAbove]
  | cons y c =>
    obtain ⟨k', y⟩ := y
    simp only [cacheWf, cacheAbove, Bool.and_eq_true, decide_eq_true_eq, List.head?_cons, Option.mem_def,
      Option.some.injEq, forall_eq']
    exact and_comm

theorem cachePut_above {lo id : RegId} (h : lo < id) (e : CacheEntry) {c : Cache} (hc : cacheAbove lo c) :
    cacheAbove lo (cachePut id e c) := by
  induction c generalizing lo with
  | nil => exact ⟨rfl, by simpa [cachePut] using h⟩
  | cons x c ih =>
    obtain ⟨k, x⟩ := x
    obtain ⟨hw, hl⟩ := hc
    have hk : lo < k := by simpa using hl
    have hab := cacheWf_cons.mp hw
    simp only [cachePut]
    split
    · subst_vars; exact ⟨cacheWf_cons.mpr hab, by simpa using h⟩
    · split
      · exact ⟨cacheWf_cons.mpr ⟨hw, by simpa using ‹id < k›⟩, by simpa using h⟩
      · have hki : k < id := by
          rename_i h1 h2
          simp only [BitVec.lt_def] at *
          have : id.toNat ≠ k.toNat := fun hh => h1 (BitVec.eq_of_toNat_eq hh)
          omega
        exact ⟨cacheWf_cons.mpr (ih hki hab), by simpa using hk⟩

/-- A put keeps the ids strictly rising. -/
theorem cachePut_wf (id : RegId) (e : CacheEntry) {c : Cache} (hc : cacheWf c = true) :
    cacheWf (cachePut id e c) = true := by
  cases c with
  | nil => rfl
  | cons x c =>
    obtain ⟨k, x⟩ := x
    have hab := cacheWf_cons.mp hc
    simp only [cachePut]
    split
    · subst_vars; exact cacheWf_cons.mpr hab
    · split
      · exact cacheWf_cons.mpr ⟨hc, by simpa using ‹id < k›⟩
      · have hki : k < id := by
          rename_i h1 h2
          simp only [BitVec.lt_def] at *
          have : id.toNat ≠ k.toNat := fun hh => h1 (BitVec.eq_of_toNat_eq hh)
          omega
        exact cacheWf_cons.mpr (cachePut_above hki e hab)

theorem State.setRegister_wf {s : State} (h : cacheWf s.cache = true) (id : RegId) (sc : Scale) (v : RegValue) :
    cacheWf (s.setRegister id sc v).cache = true := by
  rcases s.setRegister_cases id sc v with ⟨_, e⟩ | ⟨_, e⟩
  · rw [e]; exact cachePut_wf _ _ h
  · rw [e]; exact h

theorem State.invalidate_wf {s : State} (h : cacheWf s.cache = true) (id : RegId) :
    cacheWf (s.invalidate id).cache = true := by
  rcases s.invalidate_cases id with ⟨_, e⟩ | ⟨x, _, e⟩
  · rw [e]; exact h
  · rw [e]; exact cachePut_wf _ _ h

/-- An entry that already is what a put writes stays. -/
theorem setChanges_same (sc : Scale) (v : RegValue) : setChanges (some ⟨sc, v, true⟩) sc v = false := by
  simp [setChanges]

/-- A set leaves the entry it writes, whether it changed it or not (44_register_cache.md R261). -/
theorem State.cacheFind_setRegister (s : State) (id : RegId) (sc : Scale) (v : RegValue) :
    cacheFind id (s.setRegister id sc v).cache = some ⟨sc, v, true⟩ := by
  rcases s.setRegister_cases id sc v with ⟨_, e⟩ | ⟨h, e⟩
  · simp [e]
  · rw [e]
    cases hf : cacheFind id s.cache with
    | none => simp [setChanges, hf] at h
    | some x =>
      obtain ⟨a, b, c⟩ := x
      simp only [setChanges, hf] at h
      simp at h
      simp [h]

theorem State.cacheFind_setRegister_other (s : State) {id j : RegId} (hj : j ≠ id) (sc : Scale) (v : RegValue) :
    cacheFind j (s.setRegister id sc v).cache = cacheFind j s.cache := by
  rcases s.setRegister_cases id sc v with ⟨_, e⟩ | ⟨_, e⟩
  · rw [e]; exact cacheFind_put_other hj _ _
  · rw [e]

end Sys2Proof.Machine
end

