-- ==== Sys2Proof/Laws/Csr.lean ====
section
/-! SUPPORT. The words of the CSR map as numbers (spec 45_tx_and_control.md R300-R303, 10_state.md R42, R43). -/

namespace Sys2Proof.Machine

/-- The number of a field above another. -/
theorem toNat_append_add {m n : Nat} (x : BitVec m) (y : BitVec n) : (x ++ y).toNat = 2 ^ n * x.toNat + y.toNat := by
  rw [BitVec.toNat_append, Nat.shiftLeft_eq, Nat.mul_comm, Nat.two_pow_add_eq_or_of_lt y.isLt]

theorem ctrlWord_toNat (e h : Bool) : (ctrlWord e h).toNat = e.toNat + 2 * h.toNat := by
  cases e <;> cases h <;> rfl

theorem bthrWord_toNat (t : BitVec 8) : (bthrWord t).toNat = t.toNat := by simp [bthrWord]; omega

theorem pstat_toNat (p : Parser) :
    (pstat p).toNat =
      (psCode p.ps).toNat + 16 * (p.lbuf.length % 16) + 256 * (p.vbuf.length % 64) +
        65536 * (hlenField p.hbuf.length).toNat := by
  show (0#5 ++ hlenField p.hbuf.length ++ 0#2 ++ BitVec.ofNat 6 p.vbuf.length ++ BitVec.ofNat 4 p.lbuf.length ++ 0#1 ++
    psCode p.ps : BitVec (5 + 11 + 2 + 6 + 4 + 1 + 3)).toNat = _
  simp only [toNat_append_add, BitVec.toNat_ofNat]
  omega

theorem qstat_toNat (b : BitVec 8) (q : List Bytes) : (qstat b q).toNat = b.toNat + 256 * (q.length % 65536) := by
  show (0#8 ++ BitVec.ofNat 16 q.length ++ b : BitVec (8 + 16 + 8)).toNat = _
  simp only [toNat_append_add, BitVec.toNat_ofNat]
  omega

theorem cstat_toNat (c : Cache) : (cstat c).toNat = c.length % 131072 := by
  show (0#15 ++ BitVec.ofNat 17 c.length : BitVec (15 + 17)).toNat = _
  simp only [toNat_append_add, BitVec.toNat_ofNat]
  omega

theorem hlenField_toNat {n : Nat} (h : n ≤ 2047) : (hlenField n).toNat = n := by
  simp only [hlenField, if_pos (show n < 2048 by omega), BitVec.toNat_ofNat]
  omega

end Sys2Proof.Machine
end

