-- ==== Sys2Proof/Laws/Codec.lean ====
section
/-! SUPPORT. The frame codec: digits and bytes, the digits of an encoded frame, sums, and what one byte does to the
loop of DECODE_FRAME (spec 40_frame_codec.md). -/

namespace Sys2Proof.Machine

/-! ### Digits -/

theorem hexval_hexu : ∀ v : BitVec 4, hexval (hexu v) = some v := by decide

@[simp] theorem ishex_hexu (v : BitVec 4) : ishex (hexu v) = true := by simp [ishex, hexval_hexu]

@[simp] theorem nib_hexu (v : BitVec 4) : nib (hexu v) = v := by simp [nib, hexval_hexu]

theorem hexu_ne : ∀ v : BitVec 4, hexu v ≠ chColon ∧ hexu v ≠ chLf ∧ hexu v ≠ chCr ∧ hexu v ≠ chTab := by decide

/-- A hex digit is none of the bytes the parser acts on by themselves. -/
theorem ishex_ne : ∀ b : Byte, ishex b = true → b ≠ chColon ∧ b ≠ chLf ∧ b ≠ chCr ∧ b ≠ chTab := by decide

theorem nibbles (x : Byte) : (x.extractLsb' 4 4 ++ x.extractLsb' 0 4 : BitVec 8) = x := by revert x; decide

@[simp] theorem pairBytes_hex2 (s : Bytes) : pairBytes (s.flatMap hex2) = s := by
  induction s with
  | nil => rfl
  | cons x s ih =>
    simp only [List.flatMap_cons, hex2, List.cons_append, List.nil_append, pairBytes, nib_hexu, ih]
    rw [show (x.extractLsb' 4 4 ++ x.extractLsb' 0 4 : BitVec 8) = x from nibbles x]

@[simp] theorem length_flatMap_hex2 (s : Bytes) : (s.flatMap hex2).length = 2 * s.length := by
  induction s with
  | nil => rfl
  | cons x s ih => simp only [List.flatMap_cons, List.length_append, ih, hex2, List.length_cons, List.length_nil]; omega

theorem all_ishex_hex2 (s : Bytes) : (s.flatMap hex2).all ishex = true := by
  induction s with
  | nil => rfl
  | cons x s ih => simp [hex2, ih]

@[simp] theorem length_pairBytes (s : Bytes) : (pairBytes s).length = s.length / 2 := by
  induction s using pairBytes.induct with
  | case1 hi lo s ih => simp only [pairBytes, List.length_cons, ih]; omega
  | case2 => simp [pairBytes]
  | case3 => simp [pairBytes]

/-- A byte of a digit string: two digits, high nibble first (40_frame_codec.md R144). -/
theorem getD_pairBytes (s : Bytes) (k : Nat) (h : 2 * k + 1 < s.length) :
    ((pairBytes s).getD k 0).toNat = 16 * (nib (s.getD (2 * k) 0)).toNat + (nib (s.getD (2 * k + 1) 0)).toNat := by
  induction s using pairBytes.induct generalizing k with
  | case1 hi lo s ih =>
    cases k with
    | zero => exact toNat_append_add (nib hi) (nib lo)
    | succ k => exact ih k (by simp only [List.length_cons] at h; omega)
  | case2 => simp at h
  | case3 => simp at h

/-- The outcome of HexDecode on an odd digit string (40_frame_codec.md R144). -/
theorem hexDecode_odd (policy : OddDigitPolicy) (strict : Bool) {h : Bytes} (ho : h.length % 2 = 1) :
    hexDecode policy strict h =
      if h.length < 3 then none
      else if strict && !h.all ishex then none
      else if sumValid (digitBytes h) then some (digitBytes h).dropLast
      else none := by
  simp [hexDecode, oddDigits, ho]

/-! ### Encoded frames -/

/-- The frame of a string in the encoder's domain: `:`, the command digit, two digits a byte, LF. -/
theorem encodeFrame_cons {c : Byte} {rest : Bytes} (h : rest.length ≤ 511) :
    encodeFrame (c :: rest) =
      chColon :: (hexu (c.extractLsb' 0 4) :: (rest ++ [checksum (c :: rest)]).flatMap hex2 ++ [chLf]) := by
  have h' : ¬Config.bufCap < (c :: rest).length := by simp only [Config.bufCap, List.length_cons]; omega
  simp only [encodeFrame, h', if_false, List.flatMap_append, List.flatMap_cons, List.flatMap_nil, List.append_nil,
    List.cons_append, List.append_assoc]

/-- The digits of an encoded frame: the command digit, then two digits for each byte after it and for the checksum. -/
theorem frameDigits_encode {c : Byte} {rest : Bytes} (h : rest.length ≤ 511) :
    frameDigits (encodeFrame (c :: rest)) =
      hexu (c.extractLsb' 0 4) :: (rest ++ [checksum (c :: rest)]).flatMap hex2 := by
  rw [encodeFrame_cons h, frameDigits, List.tail_cons, List.dropLast_concat]

theorem length_frameDigits {c : Byte} {rest : Bytes} (h : rest.length ≤ 511) :
    (frameDigits (encodeFrame (c :: rest))).length = 2 * rest.length + 3 := by
  rw [frameDigits_encode h, List.length_cons, length_flatMap_hex2, List.length_append, List.length_singleton]; omega

theorem frameDigits_ishex {c : Byte} {rest : Bytes} (h : rest.length ≤ 511) :
    ∀ b ∈ frameDigits (encodeFrame (c :: rest)), ishex b = true := by
  rw [frameDigits_encode h]
  intro b hb
  rcases List.mem_cons.mp hb with rfl | hb
  · exact ishex_hexu _
  · exact List.all_eq_true.mp (all_ishex_hex2 _) b hb

/-- An encoded frame is its digits between `:` and LF. -/
theorem encodeFrame_digits {c : Byte} {rest : Bytes} (h : rest.length ≤ 511) :
    encodeFrame (c :: rest) = chColon :: (frameDigits (encodeFrame (c :: rest)) ++ [chLf]) := by
  rw [frameDigits_encode h, encodeFrame_cons h]

/-! ### Sums -/

@[simp] theorem sumBytes_nil : sumBytes [] = 0 := rfl

@[simp] theorem sumBytes_cons (b : Byte) (s : Bytes) : sumBytes (b :: s) = b.toNat + sumBytes s := by simp [sumBytes]

@[simp] theorem sumBytes_append (s t : Bytes) : sumBytes (s ++ t) = sumBytes s + sumBytes t := by simp [sumBytes]

theorem checksum_toNat (s : Bytes) : (checksum s).toNat = (256 - sumBytes s % 256 + 0x55) % 256 := by
  simp [checksum, BitVec.toNat_sub]

/-! ### The loop of DECODE_FRAME -/

variable (c : Cfg) (strict : Bool)

theorem decodeLoop_nil (acc : Option Bytes) : decodeLoop c strict acc [] = .incomplete := by
  cases acc <;> rfl

theorem decodeLoop_colon (acc : Option Bytes) (bs : Bytes) :
    decodeLoop c strict acc (chColon :: bs) = decodeLoop c strict (some []) bs := by
  cases acc <;> rfl

theorem decodeLoop_before {b : Byte} (h : b ≠ chColon) (bs : Bytes) :
    decodeLoop c strict none (b :: bs) = decodeLoop c strict none bs := by
  rw [decodeLoop, if_neg h]

theorem decodeLoop_stop (ds bs : Bytes) :
    decodeLoop c strict (some ds) (chLf :: bs) = (hexDecode c.oddDigitPolicy strict ds).elim .fail .ok := by
  rw [decodeLoop, if_neg (by decide), if_pos rfl]
  cases hexDecode c.oddDigitPolicy strict ds <;> rfl

theorem decodeLoop_digit {b : Byte} (hc : b ≠ chColon) (hl : b ≠ chLf) (ds bs : Bytes) :
    decodeLoop c strict (some ds) (b :: bs) =
      decodeLoop c strict (some (if ds.length < c.hexCap then ds ++ [b] else ds)) bs := by
  rw [decodeLoop, if_neg hc, if_neg hl]
  split <;> rfl

end Sys2Proof.Machine
end

