-- ==== Sys2Proof/Laws/Parser.lean ====
section
/-! SUPPORT. The record parser (spec 41_record_parser.md): which bytes a class holds, and that one step keeps the bounds
of the buffers (10_state.md R35-R37) and their shape (R38). -/

namespace Sys2Proof.Machine

/-! ### Byte classes -/

theorem classOf_colon : classOf 0x3A#8 = .colon := by decide
theorem classOf_tab : classOf 0x09#8 = .tab := by decide
theorem classOf_cr : classOf 0x0D#8 = .cr := by decide
theorem classOf_lf : classOf 0x0A#8 = .lf := by decide

theorem classOf_ishex : ∀ b : Byte, ishex b = true → classOf b = .hexdig := by decide

theorem classOf_label : ∀ b : Byte, islabel b = true → b ≠ chColon → classOf b = .hexdig ∨ classOf b = .labelOnly := by
  decide

theorem labelByteOk_of_class :
    ∀ b : Byte, classOf b = .hexdig ∨ classOf b = .labelOnly → labelByteOk b = true := by decide

/-- The three classes that are routed to the handler of the parser state (41_record_parser.md R170). -/
theorem classOf_value : ∀ b : Byte, valueByteOk b = true →
    classOf b = .hexdig ∨ classOf b = .labelOnly ∨ classOf b = .other := by decide

theorem valueByteOk_of_class : ∀ b : Byte,
    classOf b = .hexdig ∨ classOf b = .labelOnly ∨ classOf b = .other → valueByteOk b = true := by decide

/-! ### The bounds of the buffers -/

theorem Parser.Bounded.empty (n : Nat) (ps : ParserState) : Parser.Bounded n ⟨ps, [], [], []⟩ := by
  constructor <;> simp [Config.labelMax, Config.valueMax]

/-- Emptying buffers and changing the state keeps the bounds. -/
theorem Parser.Bounded.clear {n : Nat} {p q : Parser} (h : p.Bounded n) (hl : q.lbuf = [] ∨ q.lbuf = p.lbuf)
    (hv : q.vbuf = [] ∨ q.vbuf = p.vbuf) (hh : q.hbuf = [] ∨ q.hbuf = p.hbuf) : q.Bounded n := by
  obtain ⟨h1, h2, h3, h4, h5, h6⟩ := h
  constructor
  · rcases hl with e | e <;> simp_all
  · rcases hl with e | e <;> simp_all
  · rcases hv with e | e <;> simp_all
  · rcases hv with e | e <;> simp_all
  · rcases hh with e | e <;> simp_all
  · rcases hh with e | e <;> simp_all

theorem Parser.Bounded.parseColon {n : Nat} (p : Parser) : (parseColon p).1.Bounded n := Parser.Bounded.empty _ _

theorem Parser.Bounded.parseTab {n : Nat} {p : Parser} (h : p.Bounded n) : (parseTab p).1.Bounded n := by
  unfold Machine.parseTab
  split <;> exact h.clear (.inr rfl) (.inr rfl) (.inr rfl)

theorem Parser.Bounded.parseEol {c : Cfg} {n : Nat} {p : Parser} (h : p.Bounded n) (strict : Bool) :
    (parseEol c strict p).1.Bounded n := by
  unfold Machine.parseEol
  split
  iterate 3 exact Parser.Bounded.empty _ _
  · split
    · exact Parser.Bounded.empty _ _
    · exact h.clear (.inl rfl) (.inl rfl) (.inr rfl)
  · split
    · exact Parser.Bounded.empty _ _
    · exact h.clear (.inr rfl) (.inr rfl) (.inl rfl)

theorem Parser.Bounded.labelByte {n : Nat} {p : Parser} (h : p.Bounded n) {b : Byte} (hb : labelByteOk b = true) :
    (labelByte b p).1.Bounded n := by
  unfold Machine.labelByte
  split
  · obtain ⟨h1, h2, h3, h4, h5, h6⟩ := h
    refine ⟨?_, ?_, h3, h4, h5, h6⟩
    · simp only [List.length_append, List.length_singleton]; omega
    · intro x hx
      rcases List.mem_append.mp hx with hx | hx
      · exact h2 x hx
      · rw [List.mem_singleton.mp hx]; exact hb
  · exact h.clear (.inl rfl) (.inr rfl) (.inr rfl)

theorem Parser.Bounded.firstValueByte {n : Nat} {p : Parser} (h : p.Bounded n) {b : Byte} (hb : valueByteOk b = true) :
    (firstValueByte b p).1.Bounded n := by
  obtain ⟨h1, h2, h3, h4, h5, h6⟩ := h
  exact ⟨h1, h2, by simp [Machine.firstValueByte, Config.valueMax], by simpa [Machine.firstValueByte] using hb, h5, h6⟩

theorem Parser.Bounded.valueByte {n : Nat} {p : Parser} (h : p.Bounded n) {b : Byte} (hb : valueByteOk b = true) :
    (valueByte b p).1.Bounded n := by
  unfold Machine.valueByte
  split
  · obtain ⟨h1, h2, h3, h4, h5, h6⟩ := h
    refine ⟨h1, h2, ?_, ?_, h5, h6⟩
    · simp only [List.length_append, List.length_singleton]; omega
    · intro x hx
      rcases List.mem_append.mp hx with hx | hx
      · exact h4 x hx
      · rw [List.mem_singleton.mp hx]; exact hb
  · exact h

theorem Parser.Bounded.hexByte {c : Cfg} {p : Parser} (h : p.Bounded c.hexCap) (b : Byte) :
    (hexByte c b p).1.Bounded c.hexCap := by
  unfold Machine.hexByte
  split
  · rename_i hc
    obtain ⟨h1, h2, h3, h4, h5, h6⟩ := h
    refine ⟨h1, h2, h3, h4, ?_, ?_⟩
    · simp only [List.length_append, List.length_singleton]; omega
    · intro x hx
      rcases List.mem_append.mp hx with hx | hx
      · exact h6 x hx
      · rw [List.mem_singleton.mp hx]; exact hc.1
  · exact h

theorem Parser.Bounded.parseLabelClass {c : Cfg} {p : Parser} (h : p.Bounded c.hexCap) {b : Byte}
    (hb : classOf b = .hexdig ∨ classOf b = .labelOnly) : (parseLabelClass c b p).1.Bounded c.hexCap := by
  have hv := valueByteOk_of_class b (hb.elim .inl fun h => .inr (.inl h))
  unfold Machine.parseLabelClass
  split
  · exact h
  · exact h.labelByte (labelByteOk_of_class b hb)
  · exact h.firstValueByte hv
  · exact h.valueByte hv
  · exact h.hexByte b

theorem Parser.Bounded.parseOtherClass {c : Cfg} {p : Parser} (h : p.Bounded c.hexCap) {b : Byte}
    (hb : classOf b = .other) : (parseOtherClass c b p).1.Bounded c.hexCap := by
  have hv := valueByteOk_of_class b (.inr (.inr hb))
  unfold Machine.parseOtherClass
  split
  · exact h
  · exact h.clear (.inl rfl) (.inr rfl) (.inr rfl)
  · exact h.firstValueByte hv
  · exact h.valueByte hv
  · exact h.hexByte b

/-- One step of the parser keeps the bounds of the buffers. -/
theorem Parser.Bounded.parserStep {c : Cfg} {p : Parser} (h : p.Bounded c.hexCap) (strict : Bool) (b : Byte) :
    (parserStep c strict p b).1.Bounded c.hexCap := by
  unfold Machine.parserStep
  split
  · exact Parser.Bounded.parseColon p
  · exact h.parseTab
  · exact h.parseEol strict
  · exact h.parseEol strict
  · exact h.parseLabelClass (.inl ‹_›)
  · exact h.parseLabelClass (.inr ‹_›)
  · exact h.parseOtherClass ‹_›

/-! ### The shape of the buffers -/

theorem Parser.Shaped.parseColon (p : Parser) : (parseColon p).1.Shaped := ⟨rfl, rfl⟩

theorem Parser.Shaped.parseTab {p : Parser} (h : p.Shaped) : (parseTab p).1.Shaped := by
  obtain ⟨ps, l, v, x⟩ := p
  cases ps <;> exact h

theorem Parser.Shaped.parseEol {c : Cfg} {p : Parser} (h : p.Shaped) (strict : Bool) :
    (parseEol c strict p).1.Shaped := by
  obtain ⟨ps, l, v, x⟩ := p
  cases ps <;> simp only [Machine.parseEol]
  iterate 3 exact ⟨rfl, rfl⟩
  · split
    · exact ⟨rfl, rfl⟩
    · exact ⟨rfl, h.2⟩
  · split
    · exact ⟨rfl, rfl⟩
    · exact ⟨h.1, h.2, rfl⟩

theorem Parser.Shaped.parseLabelClass {c : Cfg} {p : Parser} (h : p.Shaped) (b : Byte) :
    (parseLabelClass c b p).1.Shaped := by
  obtain ⟨ps, l, v, x⟩ := p
  cases ps <;> simp only [Machine.parseLabelClass]
  · exact h
  · unfold labelByte; split
    · exact h
    · exact ⟨rfl, h⟩
  · exact ⟨List.cons_ne_nil _ _, h.2⟩
  · unfold valueByte; split
    · exact ⟨by simp, h.2⟩
    · exact h
  · unfold hexByte; split <;> exact h

theorem Parser.Shaped.parseOtherClass {c : Cfg} {p : Parser} (h : p.Shaped) (b : Byte) :
    (parseOtherClass c b p).1.Shaped := by
  obtain ⟨ps, l, v, x⟩ := p
  cases ps <;> simp only [Machine.parseOtherClass]
  · exact h
  · exact ⟨rfl, h⟩
  · exact ⟨List.cons_ne_nil _ _, h.2⟩
  · unfold valueByte; split
    · exact ⟨by simp, h.2⟩
    · exact h
  · unfold hexByte; split <;> exact h

/-- One step of the parser keeps the shape of the buffers (10_state.md R38). -/
theorem Parser.Shaped.parserStep {c : Cfg} {p : Parser} (h : p.Shaped) (strict : Bool) (b : Byte) :
    (parserStep c strict p b).1.Shaped := by
  unfold Machine.parserStep
  split
  · exact Parser.Shaped.parseColon p
  · exact h.parseTab
  · exact h.parseEol strict
  · exact h.parseEol strict
  · exact h.parseLabelClass b
  · exact h.parseLabelClass b
  · exact h.parseOtherClass b

end Sys2Proof.Machine
end

