-- ==== Sys2Proof/Laws/Reading.lean ====
section
/-! SUPPORT. Reading back what was written: one lemma per reader and its writer, in the shape
`read (put x ++ rest) = .ok (x, rest)`. -/

namespace Sys2Proof

open Sys2Proof.Machine

variable {α β : Type}

@[simp] theorem andThen_ok (a : α) (bs : Bytes) (f : α → Bytes → Read β) :
    andThen (.ok (a, bs)) f = f a bs := rfl

@[simp] theorem andThen_error (e : DecodeError) (f : α → Bytes → Read β) :
    andThen (.error e : Read α) f = .error e := rfl

/-- A reader that goes on answers only if the first part does. -/
theorem andThen_eq_ok {r : Read α} {f : α → Bytes → Read β} {x : β × Bytes} (h : andThen r f = .ok x) :
    ∃ a bs, r = .ok (a, bs) ∧ f a bs = .ok x := by
  cases r with
  | error e => cases h
  | ok p => exact ⟨p.1, p.2, rfl, h⟩

@[simp] theorem length_leBytes (n v : Nat) : (leBytes n v).length = n := by
  induction n generalizing v with
  | zero => rfl
  | succ n ih => simp [leBytes, ih]

theorem leNat_leBytes {n v : Nat} (h : v < 256 ^ n) : leNat (leBytes n v) = v := by
  induction n generalizing v with
  | zero => simp only [Nat.pow_zero] at h; simp [leBytes, leNat]; omega
  | succ n ih =>
    have h' : v / 256 < 256 ^ n := by rw [Nat.pow_succ] at h; omega
    simp only [leBytes, leNat, ih h', BitVec.toNat_ofNat]
    omega

theorem leNat_lt (bs : Bytes) : leNat bs < 256 ^ bs.length := by
  induction bs with
  | nil => simp [leNat]
  | cons b bs ih =>
    have := b.isLt
    simp only [leNat, List.length_cons, Nat.pow_succ]
    omega

@[simp] theorem readByte_cons (b : Byte) (bs : Bytes) : readByte (b :: bs) = .ok (b, bs) := rfl

@[simp] theorem readBytes_append (s r : Bytes) : readBytes s.length (s ++ r) = .ok (s, r) := by
  simp [readBytes]

theorem readNat_put {n v : Nat} (h : v < 256 ^ n) (r : Bytes) : readNat n (leBytes n v ++ r) = .ok (v, r) := by
  have := readBytes_append (leBytes n v) r
  rw [length_leBytes] at this
  simp [readNat, this, leNat_leBytes h]

theorem fits_lt {l : List α} (h : fits l = true) : l.length < 256 ^ 4 := by
  simpa [fits] using h

@[simp] theorem readString_put {s : Bytes} (h : fits s = true) (r : Bytes) :
    readString (putString s ++ r) = .ok (s, r) := by
  simp [readString, putString, List.append_assoc, readNat_put (fits_lt h)]

theorem readItems_put {item : Bytes → Read α} {put : α → Bytes} {as : List α}
    (h : ∀ a ∈ as, ∀ r, item (put a ++ r) = .ok (a, r)) (r : Bytes) :
    readItems item as.length (as.flatMap put ++ r) = .ok (as, r) := by
  induction as generalizing r with
  | nil => rfl
  | cons a as ih =>
    have ha := h a (by simp)
    have has := ih (fun x hx => h x (by simp [hx]))
    simp [readItems, List.append_assoc, ha, has]

theorem readList_put {item : Bytes → Read α} {put : α → Bytes} {as : List α} (hl : fits as = true)
    (h : ∀ a ∈ as, ∀ r, item (put a ++ r) = .ok (a, r)) (r : Bytes) :
    readList item (putList put as ++ r) = .ok (as, r) := by
  simp [readList, putList, List.append_assoc, readNat_put (fits_lt hl), readItems_put h]

@[simp] theorem readId_put (id : RegId) (r : Bytes) : readId (putId id ++ r) = .ok (id, r) := by
  simp [readId, putId, readNat_put (show id.toNat < 256 ^ 2 from id.isLt)]

@[simp] theorem readWord_put (v : BitVec 32) (r : Bytes) : readWord (putWord v ++ r) = .ok (v, r) := by
  simp [readWord, putWord, readNat_put (show v.toNat < 256 ^ 4 from v.isLt)]

theorem readOption_put {item : Bytes → Read α} {put : α → Bytes} (o : Option α)
    (h : ∀ a ∈ o, ∀ r, item (put a ++ r) = .ok (a, r)) (r : Bytes) :
    readOption item (putOption put o ++ r) = .ok (o, r) := by
  cases o with
  | none => simp [readOption, putOption]
  | some a => simp [readOption, putOption, h a rfl]

theorem readEnumEntry_put {e : EnumEntry} (h : fits e.label = true) (r : Bytes) :
    readEnumEntry (putEnumEntry e ++ r) = .ok (e, r) := by
  simp [readEnumEntry, putEnumEntry, List.append_assoc, h]

theorem Width.bytes_lt (w : Width) : w.bytes < 256 := by cases w <;> decide

@[simp] theorem readNat_putWidth (w : Width) (r : Bytes) : readNat 1 (putWidth w ++ r) = .ok (w.bytes, r) :=
  readNat_put (by simpa using w.bytes_lt) r

theorem widthOf_eq_some {n : Nat} {w : Width} (h : widthOf n = some w) : w.bytes = n := by
  unfold widthOf at h
  split at h
  · cases h; simp [Width.bytes, *]
  · split at h
    · cases h; simp [Width.bytes, *]
    · split at h <;> cases h
      simp [Width.bytes, *]

theorem widthsOf_eq_some {ns : List Nat} {ws : List Width} (h : widthsOf ns = some ws) : ws.map Width.bytes = ns := by
  induction ns generalizing ws with
  | nil => cases h; rfl
  | cons n ns ih =>
    rw [widthsOf] at h
    split at h
    · cases h
      rename_i hw hs
      rw [List.map_cons, widthOf_eq_some hw, ih hs]
    · cases h

@[simp] theorem widthOf_bytes (w : Width) : widthOf w.bytes = some w := by cases w <;> rfl

@[simp] theorem widthsOf_bytes (ws : List Width) : widthsOf (ws.map Width.bytes) = some ws := by
  induction ws with
  | nil => rfl
  | cons w ws ih => simp [widthsOf, ih]

theorem width_pow_le (w : Width) : 256 ^ w.bytes ≤ 256 ^ 4 := by cases w <;> decide

theorem readField_put {f : Width × Nat} (h : f.2 < 256 ^ f.1.bytes) (r : Bytes) :
    readField (putField f ++ r) = .ok (f, r) := by
  have h4 : f.2 < 256 ^ 4 := lt_of_lt_of_le h (width_pow_le f.1)
  simp [readField, putField, List.append_assoc, readNat_put h4]

theorem readCounts_put {ws : List Width} (h : fits ws = true) (r : Bytes) :
    readList readCount (putList putWidth ws ++ r) = .ok (ws.map Width.bytes, r) := by
  have hp : putList putWidth ws = putList (leBytes 1) (ws.map Width.bytes) := by
    simp only [putList, List.length_map, List.flatMap_map]; rfl
  rw [hp]
  refine readList_put (by simpa [fits] using h) (fun n hn r => ?_) r
  obtain ⟨w, _, rfl⟩ := List.mem_map.mp hn
  exact readNat_put (by simpa using w.bytes_lt) r

/-- The field widths of a descriptor, where they are given, are read back as byte counts. -/
theorem readFields_put {o : Option (List Width)} (h : ∀ ws ∈ o, fits ws = true) (r : Bytes) :
    readOption (readList readCount) (putOption (putList putWidth) o ++ r) = .ok (o.map (·.map Width.bytes), r) := by
  cases o with
  | none => simp [readOption, putOption]
  | some ws => simp [readOption, putOption, readCounts_put (h ws rfl)]

/-- A descriptor is read back from its raw form (30_encoding.md R111). -/
theorem checkDescriptor_raw (id : RegId) (w : Width) (sc : Scale) (k : DescKind) :
    checkDescriptor ⟨id, kindCode k, w.bytes, sc, kindMap k, (kindFields k).map (·.map Width.bytes)⟩ =
      .ok ⟨id, ⟨w, sc, k⟩⟩ := by
  cases k <;> simp [checkDescriptor, checkKind, kindCode, kindMap, kindFields]

theorem kindCode_lt (k : DescKind) : kindCode k < 256 := by cases k <;> simp [kindCode]

/-- The checks of a list all hold when none is the first to fail. -/
theorem firstProblem_none {cs : List (Bool × Problem)} (h : firstProblem cs = none) : ∀ c ∈ cs, c.1 = true := by
  induction cs with
  | nil => simp
  | cons c cs ih =>
    obtain ⟨b, p⟩ := c
    cases b with
    | false => simp [firstProblem] at h
    | true =>
      intro x hx
      rcases List.mem_cons.mp hx with rfl | hx
      · rfl
      · exact ih h x hx

theorem readDescriptor_put {id : RegId} {w : Width} {sc : Scale} {k : DescKind} {d : Bytes}
    (hm : ∀ m ∈ kindMap k, fits m = true ∧ ∀ e ∈ m, fits e.label = true) (hf : ∀ ws ∈ kindFields k, fits ws = true)
    (hd : fits d = true) (r : Bytes) :
    readDescriptor (putDescriptor id w sc k d ++ r) = .ok (descriptorInstr ⟨id, ⟨w, sc, k⟩⟩ d, r) := by
  simp only [readDescriptor, putDescriptor, List.append_assoc]
  rw [readNat_put (by simpa using kindCode_lt k)]
  simp only [andThen_ok, readId_put, readNat_putWidth, readWord_put]
  rw [readOption_put _ (fun m h => readList_put (hm m h).1 fun e he r => readEnumEntry_put ((hm m h).2 e he) r)]
  simp only [andThen_ok, readFields_put hf, readString_put hd, checkDescriptor_raw]

theorem readFrameEvent_put {f : FrameEvent} (hd : fits f.d = true) (hr : fits f.resp = true) (hw : fits f.raw = true)
    (r : Bytes) : readFrameEvent (putFrameEvent f ++ r) = .ok (f, r) := by
  simp only [readFrameEvent, putFrameEvent, List.append_assoc, readString_put hd, andThen_ok]
  rw [readOption_put f.id fun a _ => readId_put a]
  simp only [andThen_ok]
  rw [readOption_put f.flags fun a _ r => by simp]
  simp only [andThen_ok, readString_put hr, readString_put hw]

theorem readError_put {e : BlockError} (h : firstProblem e.checks = none) (r : Bytes) :
    readError (putError e ++ r) = .ok (e, r) := by
  have hc := firstProblem_none h
  cases e with
  | checksumMismatch raw =>
    simp [BlockError.checks] at hc
    simp [readError, putError, hc.1]
  | invalidLabelChar b => simp [readError, putError]
  | labelTooLong => simp [readError, putError]
  | unknownRegister id x =>
    have hx : x.toNat < 8 := x.isLt
    simp [readError, putError, List.append_assoc, readNat_put (show x.toNat < 256 ^ 1 by omega), hx]
  | payloadTooShort cmd n =>
    simp [BlockError.checks] at hc
    simp [readError, putError, readNat_put (show n < 256 ^ 4 by omega)]

theorem readValue_put {v : RegValue} (h : firstProblem v.checks = none) (r : Bytes) :
    readValue (putValue v ++ r) = .ok (v, r) := by
  have hc := firstProblem_none h
  match v with
  | .number k =>
    simp only [RegValue.checks, List.mem_singleton, forall_eq, decide_eq_true_eq] at hc
    have hk : k.natAbs < 256 ^ 16 := by simpa using hc
    by_cases hn : k < 0
    · simp [readValue, putValue, hn, readNat_put hk, abs_of_neg hn]
    · simp [readValue, putValue, hn, readNat_put hk, abs_of_nonneg (not_lt.mp hn)]
  | .str (.bytes s) =>
    simp [RegValue.checks] at hc
    simp [readValue, putValue, hc]
  | .str (.flagSet m) =>
    have hm : m.toNat < 2147483648 := m.isLt
    simp [readValue, putValue, readNat_put (show m.toNat < 256 ^ 4 by omega), hm]
  | .str (.enumLabel s) =>
    simp [RegValue.checks] at hc
    simp [readValue, putValue, hc]
  | .composite fs =>
    simp only [RegValue.checks, List.mem_cons, List.not_mem_nil, or_false, forall_eq_or_imp, forall_eq,
      List.all_eq_true, decide_eq_true_eq] at hc
    simp [readValue, putValue, readList_put hc.1 (fun f hf r => readField_put (hc.2 f hf) r)]

theorem readFrame_put {cmd : Byte} {rest raw : Bytes} (hc : cmd.extractLsb' 4 4 = 0#4) (h : fits rest = true)
    (hw : fits raw = true) (r : Bytes) :
    readFrame (putFrame cmd rest raw ++ r) = .ok (frameInstr cmd rest raw, r) := by
  simp [readFrame, putFrame, hc, List.append_assoc, h, hw]

theorem frameChecks_fits {rest raw : Bytes} (h : firstProblem (frameChecks rest raw) = none) :
    fits rest = true ∧ fits raw = true := by
  have hc := firstProblem_none h
  simp [frameChecks] at hc
  exact ⟨by simp [fits]; omega, hc.2.1⟩

end Sys2Proof
end

