-- ==== Sys2Proof/Laws/PerInstr.lean ====
section
/-! SUPPORT. The family EncodeDecode, one lemma per constructor of Instr: a well-formed instruction is read back from
its own bytes, whatever follows them. -/

namespace Sys2Proof.Laws.EncodeDecode

open Sys2Proof Sys2Proof.Machine

/-- Decoding the bytes of a well-formed instruction, in its format, gives the instruction and the bytes after it. -/
def Statement (i : Instr) : Prop :=
  i.WellFormed → ∀ rest : Bytes, decode i.format (encode i ++ rest) = .ok (i, rest)

/-- It is enough that the format's reader reads the instruction back. -/
theorem of_read {i : Instr} (h : i.WellFormed → ∀ r : Bytes, readInstr i.format (encode i ++ r) = .ok (i, r)) :
    Statement i := by
  intro hw r
  have hp : i.problem = none := hw
  simp [decode, h hw r, hp]

theorem rxByte (b : Byte) : Statement (.rxByte b) :=
  of_read fun _ r => by simp [readInstr, Instr.format, Sys2Proof.encode, readHostOp]

theorem encode (s : Bytes) : Statement (.encode s) :=
  of_read fun hw r => by
    have hc := firstProblem_none hw
    simp [Instr.checks] at hc
    simp [readInstr, Instr.format, Sys2Proof.encode, readHostOp, hc]

theorem decodeFrame (s : Bytes) : Statement (.decodeFrame s) :=
  of_read fun hw r => by
    have hc := firstProblem_none hw
    simp [Instr.checks] at hc
    simp [readInstr, Instr.format, Sys2Proof.encode, readHostOp, hc]

theorem enqueue (s : Bytes) : Statement (.enqueue s) :=
  of_read fun hw r => by
    have hc := firstProblem_none hw
    simp [Instr.checks] at hc
    simp [readInstr, Instr.format, Sys2Proof.encode, readHostOp, hc]

theorem cacheRead (id : RegId) : Statement (.cacheRead id) :=
  of_read fun _ r => by simp [readInstr, Instr.format, Sys2Proof.encode, readHostOp]

theorem cacheInvalidate (id : RegId) : Statement (.cacheInvalidate id) :=
  of_read fun _ r => by simp [readInstr, Instr.format, Sys2Proof.encode, readHostOp]

theorem csrRead (a : Byte) : Statement (.csrRead a) :=
  of_read fun _ r => by simp [readInstr, Instr.format, Sys2Proof.encode, readHostOp]

theorem csrWrite (a : Byte) (v : Word) : Statement (.csrWrite a v) :=
  of_read fun _ r => by simp [readInstr, Instr.format, Sys2Proof.encode, readHostOp]

theorem sessionReset : Statement (.sessionReset) :=
  of_read fun _ r => by simp [readInstr, Instr.format, Sys2Proof.encode, readHostOp]

theorem reset : Statement (.reset) :=
  of_read fun _ r => by simp [readInstr, Instr.format, Sys2Proof.encode, readHostOp]

theorem reservedOp (op : BitVec 4) : Statement (.reservedOp op) :=
  of_read fun hw r => by
    have hc := firstProblem_none hw
    simp [Instr.checks] at hc
    revert hc
    revert op
    simp only [readInstr, Instr.format, Sys2Proof.encode, readHostOp, List.singleton_append, readByte_cons, andThen_ok]
    intro op _ hc
    have key : ∀ op : BitVec 4, 10#4 ≤ op → op.setWidth 8 ≠ 0#8 ∧ op.setWidth 8 ≠ 1#8 ∧ op.setWidth 8 ≠ 2#8 ∧
        op.setWidth 8 ≠ 3#8 ∧ op.setWidth 8 ≠ 4#8 ∧ op.setWidth 8 ≠ 5#8 ∧ op.setWidth 8 ≠ 6#8 ∧
        op.setWidth 8 ≠ 7#8 ∧ op.setWidth 8 ≠ 8#8 ∧ op.setWidth 8 ≠ 9#8 ∧
        (op.setWidth 8).extractLsb' 4 4 = 0#4 ∧ (op.setWidth 8).setWidth 4 = op := by decide
    obtain ⟨h0, h1, h2, h3, h4, h5, h6, h7, h8, h9, ha, hb⟩ := key op hc
    simp [h0, h1, h2, h3, h4, h5, h6, h7, h8, h9, ha]

theorem byteColon : Statement (.byteColon) :=
  of_read fun _ _ => rfl

theorem byteTab : Statement (.byteTab) :=
  of_read fun _ _ => rfl

theorem byteCr : Statement (.byteCr) :=
  of_read fun _ _ => rfl

theorem byteLf : Statement (.byteLf) :=
  of_read fun _ _ => rfl

theorem byteHexdig (b : Byte) : Statement (.byteHexdig b) :=
  of_read fun hw r => by
    have hc := firstProblem_none hw
    simp [Instr.checks] at hc
    simp [readInstr, Instr.format, Sys2Proof.encode, readByteClass, hc]

theorem byteLabelOnly (b : Byte) : Statement (.byteLabelOnly b) :=
  of_read fun hw r => by
    have hc := firstProblem_none hw
    simp [Instr.checks] at hc
    simp [readInstr, Instr.format, Sys2Proof.encode, readByteClass, hc]

theorem byteOther (b : Byte) : Statement (.byteOther b) :=
  of_read fun hw r => by
    have hc := firstProblem_none hw
    simp [Instr.checks] at hc
    simp [readInstr, Instr.format, Sys2Proof.encode, readByteClass, hc]

theorem ping (rest raw : Bytes) : Statement (.ping rest raw) :=
  of_read fun hw r => by
    obtain ⟨h, hr⟩ := frameChecks_fits hw
    exact readFrame_put (by decide) h hr r

theorem appver (rest raw : Bytes) : Statement (.appver rest raw) :=
  of_read fun hw r => by
    obtain ⟨h, hr⟩ := frameChecks_fits hw
    exact readFrame_put (by decide) h hr r

theorem productId (rest raw : Bytes) : Statement (.productId rest raw) :=
  of_read fun hw r => by
    obtain ⟨h, hr⟩ := frameChecks_fits hw
    exact readFrame_put (by decide) h hr r

theorem pingResponse (rest raw : Bytes) : Statement (.pingResponse rest raw) :=
  of_read fun hw r => by
    obtain ⟨h, hr⟩ := frameChecks_fits hw
    exact readFrame_put (by decide) h hr r

theorem restart (rest raw : Bytes) : Statement (.restart rest raw) :=
  of_read fun hw r => by
    obtain ⟨h, hr⟩ := frameChecks_fits hw
    exact readFrame_put (by decide) h hr r

theorem get (rest raw : Bytes) : Statement (.get rest raw) :=
  of_read fun hw r => by
    obtain ⟨h, hr⟩ := frameChecks_fits hw
    exact readFrame_put (by decide) h hr r

theorem set (rest raw : Bytes) : Statement (.set rest raw) :=
  of_read fun hw r => by
    obtain ⟨h, hr⟩ := frameChecks_fits hw
    exact readFrame_put (by decide) h hr r

theorem async (rest raw : Bytes) : Statement (.async rest raw) :=
  of_read fun hw r => by
    obtain ⟨h, hr⟩ := frameChecks_fits hw
    exact readFrame_put (by decide) h hr r

theorem unassignedCmd (c : BitVec 4) (rest raw : Bytes) : Statement (.unassignedCmd c rest raw) :=
  of_read fun hw r => by
    have hu : unassigned c = true := firstProblem_none hw _ (List.mem_cons_self)
    have hf : firstProblem (frameChecks rest raw) = none := by
      have h := hw
      simp only [Instr.WellFormed, Instr.problem, Instr.checks, hu, firstProblem] at h
      exact h
    obtain ⟨h, hr⟩ := frameChecks_fits hf
    have key : ∀ c : BitVec 4, unassigned c = true → (c.setWidth 8).extractLsb' 4 4 = 0#4 ∧
        ∀ rest raw, frameInstr (c.setWidth 8) rest raw = .unassignedCmd c rest raw := by
      intro c hc
      refine ⟨by revert c; decide, fun rest raw => ?_⟩
      have : c.setWidth 8 ≠ cmdPing ∧ c.setWidth 8 ≠ cmdAppver ∧ c.setWidth 8 ≠ cmdProductId ∧
          c.setWidth 8 ≠ cmdPingResponse ∧ c.setWidth 8 ≠ cmdRestart ∧ c.setWidth 8 ≠ cmdGet ∧
          c.setWidth 8 ≠ cmdSet ∧ c.setWidth 8 ≠ cmdAsync ∧ (c.setWidth 8).setWidth 4 = c := by
        revert c; decide
      obtain ⟨h1, h2, h3, h4, h5, h6, h7, h8, h9⟩ := this
      simp only [frameInstr, h1, h2, h3, h4, h5, h6, h7, h8, if_false, h9]
    obtain ⟨ha, hb⟩ := key c hu
    have := readFrame_put ha h hr r
    rw [hb] at this
    exact this

theorem descScalarNumeric (id : RegId) (w : Width) (sc : Scale) (d : Bytes) : Statement (.descScalarNumeric id w sc d) :=
  of_read fun hw r => by
    have hc := firstProblem_none hw
    simp [Instr.checks] at hc
    exact readDescriptor_put (k := .scalarNumeric) (by simp [kindMap]) (by simp [kindFields]) hc r

theorem descBitFlags (id : RegId) (w : Width) (sc : Scale) (d : Bytes) : Statement (.descBitFlags id w sc d) :=
  of_read fun hw r => by
    have hc := firstProblem_none hw
    simp [Instr.checks] at hc
    exact readDescriptor_put (k := .bitFlags) (by simp [kindMap]) (by simp [kindFields]) hc r

theorem descEnum (id : RegId) (w : Width) (sc : Scale) (m : List EnumEntry) (d : Bytes) : Statement (.descEnum id w sc m d) :=
  of_read fun hw r => by
    have hc := firstProblem_none hw
    simp [Instr.checks] at hc
    exact readDescriptor_put (k := .enum m) (by simpa [kindMap] using ⟨hc.1, hc.2.1⟩) (by simp [kindFields]) hc.2.2 r

theorem descCompositeRecord (id : RegId) (w : Width) (sc : Scale) (fs : List Width) (d : Bytes) : Statement (.descCompositeRecord id w sc fs d) :=
  of_read fun hw r => by
    have hc := firstProblem_none hw
    simp [Instr.checks] at hc
    exact readDescriptor_put (k := .compositeRecord fs) (by simp [kindMap]) (by simpa [kindFields] using hc.1) hc.2 r

theorem descRawString (id : RegId) (w : Width) (sc : Scale) (d : Bytes) : Statement (.descRawString id w sc d) :=
  of_read fun hw r => by
    have hc := firstProblem_none hw
    simp [Instr.checks] at hc
    exact readDescriptor_put (k := .rawString) (by simp [kindMap]) (by simp [kindFields]) hc r

theorem evtTextField (label value : Bytes) : Statement (.evtTextField label value) :=
  of_read fun hw r => by
    have hc := firstProblem_none hw
    simp [Instr.checks] at hc
    have hl : fits label = true := by simp [fits]; omega
    have hv : fits value = true := by simp [fits]; omega
    simp [readInstr, Instr.format, Sys2Proof.encode, readEvent, List.append_assoc, hl, hv]

theorem evtFrame (f : FrameEvent) : Statement (.evtFrame f) :=
  of_read fun hw r => by
    have hc := firstProblem_none hw
    simp [Instr.checks, FrameEvent.checks] at hc
    have hd : fits f.d = true := by simp [fits]; omega
    simp [readInstr, Instr.format, Sys2Proof.encode, readEvent, readFrameEvent_put hd hc.2.1 hc.2.2.1]

theorem evtError (e : BlockError) : Statement (.evtError e) :=
  of_read fun hw r => by
    simp [readInstr, Instr.format, Sys2Proof.encode, readEvent, readError_put hw]

theorem evtCacheChange (id : RegId) (sc : Scale) (v : RegValue) : Statement (.evtCacheChange id sc v) :=
  of_read fun hw r => by
    simp [readInstr, Instr.format, Sys2Proof.encode, readEvent, List.append_assoc, readValue_put hw]

theorem errChecksumMismatch (raw : Bytes) : Statement (.errChecksumMismatch raw) :=
  of_read fun hw r => by
    simp [readInstr, Instr.format, Sys2Proof.encode, readError_put (e := .checksumMismatch raw) hw, errorInstr]

theorem errInvalidLabelChar (b : Byte) : Statement (.errInvalidLabelChar b) :=
  of_read fun hw r => by
    simp [readInstr, Instr.format, Sys2Proof.encode, readError_put (e := .invalidLabelChar b) hw, errorInstr]

theorem errLabelTooLong : Statement (.errLabelTooLong) :=
  of_read fun hw r => by
    simp [readInstr, Instr.format, Sys2Proof.encode, readError_put (e := .labelTooLong) hw, errorInstr]

theorem errUnknownRegister (id : RegId) (x : BitVec 3) : Statement (.errUnknownRegister id x) :=
  of_read fun hw r => by
    simp [readInstr, Instr.format, Sys2Proof.encode, readError_put (e := .unknownRegister id x) hw, errorInstr]

theorem errPayloadTooShort (cmd : Byte) (n : Nat) : Statement (.errPayloadTooShort cmd n) :=
  of_read fun hw r => by
    simp [readInstr, Instr.format, Sys2Proof.encode, readError_put (e := .payloadTooShort cmd n) hw, errorInstr]

end Sys2Proof.Laws.EncodeDecode
end

