-- ==== Sys2Proof/Laws/Program.lean ====
section
/-! SUPPORT. Running lists of operations (spec 20_memory.md R81, 30_encoding.md R124). -/

namespace Sys2Proof.Machine

@[simp] theorem execAll_nil (s : State) : execAll [] s = .next s := rfl

/-- The first of a list of operations runs, then the others on what it left. -/
theorem execAll_cons {i : Instr} {is : List Instr} {s t : State} (h : exec i s = .next t) :
    execAll (i :: is) s = execAll is t := by
  rw [execAll, h]

/-- A list run to its end, then another from there. -/
theorem execAll_append {is js : List Instr} {s t : State} (h : execAll is s = .next t) :
    execAll (is ++ js) s = execAll js t := by
  induction is generalizing s with
  | nil => cases h; rfl
  | cons i is ih =>
    rw [List.cons_append, execAll]
    rw [execAll] at h
    split at h
    · exact ih h
    · cases h
    · cases h

theorem execAll_single (i : Instr) (s : State) : execAll [i] s = exec i s := by
  rw [execAll]
  split <;> simp_all

@[simp] theorem rx_nil : rx [] = [] := rfl

@[simp] theorem rx_cons (b : Byte) (bs : Bytes) : rx (b :: bs) = .rxByte b :: rx bs := rfl

@[simp] theorem rx_append (as bs : Bytes) : rx (as ++ bs) = rx as ++ rx bs := by simp [rx]

end Sys2Proof.Machine
end

