-- ==== Sys2Proof/Tests/Slice0.lean ====
section
/-! SUPPORT. Tests. Expected results are the vectors of spec/95_test_vectors.md (section numbers in the comments) and
the examples of the rules; decode tests write words out from the encoding tables of spec/30_encoding.md and
60_exceptions.md R320. -/

namespace Sys2Proof.Tests

open Sys2Proof Sys2Proof.Machine

/-! ### Helpers -/

/-- The test configuration of spec/95_test_vectors.md: the normative entries and the test-only ones. -/
def testCfg : Cfg where
  regTable :=
    [Config.desc0104, Config.descEDD5, Config.desc1070, ⟨0xF001, ⟨.u32, 0x3F800000, .bitFlags⟩⟩,
     ⟨0xF002, ⟨.u8, 0x3F800000, .enum [⟨0, [0x4C, 0x30]⟩, ⟨1, [0x4C, 0x31]⟩]⟩⟩,
     ⟨0xF003, ⟨.u8, 0x3F800000, .rawString⟩⟩, ⟨0xF004, ⟨.u32, 0x3DCCCCCD, .scalarNumeric⟩⟩,
     ⟨0xF005, ⟨.u8, 0x3F800000, .compositeRecord [.u16, .u32]⟩⟩]
  textMap := [Config.textV, ⟨[0x54, 0x58, 0x31], 0xF011, 0x3F800000, .text⟩]
  burstLabels := Config.burstLabels
  hexCap := 1025
  queueDepth := 16
  oddDigitPolicy := .reject

/-- An instance with the test configuration right after RESET. -/
def start : State := State.ofCfg testCfg

/-- That instance with its parser in a given state. -/
def parsing (ps : ParserState) (l v h : Bytes) : State := { start with parser := ⟨ps, l, v, h⟩ }

/-- The state after one operation. -/
def after (i : Instr) (s : State) : Option State :=
  match exec i s with
  | .next t => some t
  | .fault _ => none
  | .refused _ => none

/-- The parser and the events after one operation. -/
def seen (i : Instr) (s : State) : Option (Parser × List Event) := (after i s).map fun t => (t.parser, t.evt)

/-- The events after one operation. -/
def events (i : Instr) (s : State) : Option (List Event) := (after i s).map State.evt

/-- The result of one operation. -/
def answer (i : Instr) (s : State) : Option HostResult := (after i s).bind State.result

/-- What the decoder answers, as data. -/
def decoded (f : Format) (bs : Bytes) : Option (Instr × Bytes) := (decode f bs).toOption

/-! ### Well-formedness: each check refuses an ill-formed term -/

theorem test_wf_opNotReserved : (Instr.reservedOp 0x9).problem = some .opNotReserved := by decide
theorem test_wf_wrongByteClass : (Instr.byteHexdig 0x47).problem = some .wrongByteClass := by decide
theorem test_wf_wrongByteClass_label : (Instr.byteLabelOnly 0x41).problem = some .wrongByteClass := by decide
theorem test_wf_wrongByteClass_other : (Instr.byteOther 0x3A).problem = some .wrongByteClass := by decide
theorem test_wf_commandAssigned : (Instr.unassignedCmd 0x7 [] []).problem = some .commandAssigned := by decide
theorem test_wf_bufferLength : (Instr.evtFrame ⟨[], none, none, [], []⟩).problem = some .bufferLength := by decide
theorem test_wf_rawNotHex : (Instr.ping [] [0x47]).problem = some .rawNotHex := by decide
theorem test_wf_labelLength : (Instr.evtTextField (List.replicate 10 0x41) [0x31]).problem = some .labelLength := by
  decide
theorem test_wf_valueLength : (Instr.evtTextField [0x56] []).problem = some .valueLength := by decide
theorem test_wf_lengthTooLarge : (Instr.errPayloadTooShort 7 1024).problem = some .lengthTooLarge := by decide
theorem test_wf_fieldTooLarge :
    (Instr.evtCacheChange 0 0 (.composite [(.u8, 256)])).problem = some .fieldTooLarge := by decide
theorem test_wf_numberTooLarge :
    (Instr.evtCacheChange 0 0 (.number 340282366920938463463374607431768211456)).problem = some .numberTooLarge := by
  decide
theorem test_wf_tooLong (s : Bytes) (h : 4294967296 ≤ s.length) : (Instr.encode s).problem = some .tooLong := by
  have hf : fits s = false := by simpa [fits] using h
  simp only [Instr.problem, Instr.checks, hf, firstProblem]

/-! ### Decoding: a word written out for every constructor -/

theorem test_decode_rxByte : decoded .hostOp [0x0, 0x0A] = some (.rxByte 0x0A, []) := by decide
theorem test_decode_encode : decoded .hostOp [0x1, 2, 0, 0, 0, 7, 9] = some (.encode [7, 9], []) := by decide
theorem test_decode_decodeFrame : decoded .hostOp [0x2, 1, 0, 0, 0, 0x3A] = some (.decodeFrame [0x3A], []) := by decide
theorem test_decode_enqueue :
    decoded .hostOp [0x3, 4, 0, 0, 0, 0x07, 0xD5, 0xED, 0x00] = some (.enqueue [0x07, 0xD5, 0xED, 0x00], []) := by decide
theorem test_decode_cacheRead : decoded .hostOp [0x4, 0x8D, 0xED] = some (.cacheRead 0xED8D, []) := by decide
theorem test_decode_cacheInvalidate : decoded .hostOp [0x5, 0x04, 0x01] = some (.cacheInvalidate 0x0104, []) := by decide
theorem test_decode_csrRead : decoded .hostOp [0x6, 0x08] = some (.csrRead 0x08, []) := by decide
theorem test_decode_csrWrite :
    decoded .hostOp [0x7, 0x04, 0x23, 0x01, 0x00, 0x00] = some (.csrWrite 0x04 0x123, []) := by decide
theorem test_decode_sessionReset : decoded .hostOp [0x8] = some (.sessionReset, []) := by decide
theorem test_decode_reset : decoded .hostOp [0x9, 0x55] = some (.reset, [0x55]) := by decide
theorem test_decode_reservedOp : decoded .hostOp [0xF] = some (.reservedOp 0xF, []) := by decide
theorem test_decode_byteColon : decoded .rxByteClass [0x3A] = some (.byteColon, []) := by decide
theorem test_decode_byteTab : decoded .rxByteClass [0x09] = some (.byteTab, []) := by decide
theorem test_decode_byteCr : decoded .rxByteClass [0x0D] = some (.byteCr, []) := by decide
theorem test_decode_byteLf : decoded .rxByteClass [0x0A] = some (.byteLf, []) := by decide
theorem test_decode_byteHexdig : decoded .rxByteClass [0x46] = some (.byteHexdig 0x46, []) := by decide
theorem test_decode_byteLabelOnly : decoded .rxByteClass [0x23] = some (.byteLabelOnly 0x23, []) := by decide
theorem test_decode_byteOther : decoded .rxByteClass [0x2D] = some (.byteOther 0x2D, []) := by decide
theorem test_decode_ping :
    decoded .vehexFrame [0x1, 0, 0, 0, 0, 3, 0, 0, 0, 0x31, 0x35, 0x34] = some (.ping [] [0x31, 0x35, 0x34], []) := by
  decide
theorem test_decode_appver : decoded .vehexFrame [0x3, 0, 0, 0, 0, 0, 0, 0, 0] = some (.appver [] [], []) := by decide
theorem test_decode_productId : decoded .vehexFrame [0x4, 0, 0, 0, 0, 0, 0, 0, 0] = some (.productId [] [], []) := by
  decide
theorem test_decode_pingResponse :
    decoded .vehexFrame [0x5, 2, 0, 0, 0, 0x10, 0x43, 0, 0, 0, 0] = some (.pingResponse [0x10, 0x43] [], []) := by decide
theorem test_decode_restart : decoded .vehexFrame [0x6, 0, 0, 0, 0, 0, 0, 0, 0] = some (.restart [] [], []) := by decide
theorem test_decode_get :
    decoded .vehexFrame [0x7, 4, 0, 0, 0, 4, 1, 0, 2, 0, 0, 0, 0] = some (.get [4, 1, 0, 2] [], []) := by decide
theorem test_decode_set :
    decoded .vehexFrame [0x8, 4, 0, 0, 0, 4, 1, 0, 3, 0, 0, 0, 0] = some (.set [4, 1, 0, 3] [], []) := by decide
theorem test_decode_async :
    decoded .vehexFrame [0xA, 1, 0, 0, 0, 9, 0, 0, 0, 0] = some (.async [9] [], []) := by decide
theorem test_decode_unassignedCmd :
    decoded .vehexFrame [0xF, 2, 0, 0, 0, 1, 2, 0, 0, 0, 0] = some (.unassignedCmd 0xF [1, 2] [], []) := by decide
theorem test_decode_descScalarNumeric :
    decoded .descriptorKind [0, 0xD5, 0xED, 2, 0x0A, 0xD7, 0x23, 0x3C, 0, 0, 1, 0, 0, 0, 7] =
      some (.descScalarNumeric 0xEDD5 .u16 0x3C23D70A [7], []) := by decide
theorem test_decode_descBitFlags :
    decoded .descriptorKind [1, 0x01, 0xF0, 4, 0, 0, 0x80, 0x3F, 0, 0, 1, 0, 0, 0, 7] =
      some (.descBitFlags 0xF001 .u32 0x3F800000 [7], []) := by decide
theorem test_decode_descEnum :
    decoded .descriptorKind
        [2, 0x02, 0xF0, 1, 0, 0, 0x80, 0x3F, 1, 1, 0, 0, 0, 5, 0, 0, 0, 1, 0, 0, 0, 0x4C, 0, 1, 0, 0, 0, 7] =
      some (.descEnum 0xF002 .u8 0x3F800000 [⟨5, [0x4C]⟩] [7], []) := by decide
theorem test_decode_descCompositeRecord :
    decoded .descriptorKind
        [3, 0x05, 0xF0, 1, 0, 0, 0x80, 0x3F, 0, 1, 2, 0, 0, 0, 2, 4, 1, 0, 0, 0, 7] =
      some (.descCompositeRecord 0xF005 .u8 0x3F800000 [.u16, .u32] [7], []) := by decide
theorem test_decode_descRawString :
    decoded .descriptorKind [4, 0x03, 0xF0, 1, 0, 0, 0x80, 0x3F, 0, 0, 1, 0, 0, 0, 7] =
      some (.descRawString 0xF003 .u8 0x3F800000 [7], []) := by decide
theorem test_decode_evtTextField :
    decoded .eventTag [1, 1, 0, 0, 0, 0x56, 1, 0, 0, 0, 0x31] = some (.evtTextField [0x56] [0x31], []) := by decide
theorem test_decode_evtFrame :
    decoded .eventTag [2, 1, 0, 0, 0, 1, 0, 0, 1, 0, 0, 0, 1, 0, 0, 0, 0] =
      some (.evtFrame ⟨[1], none, none, [1], []⟩, []) := by decide
theorem test_decode_evtError : decoded .eventTag [3, 3] = some (.evtError .labelTooLong, []) := by decide
theorem test_decode_evtCacheChange :
    decoded .eventTag ([4, 0x8D, 0xED, 0x6F, 0x12, 0x83, 0x3A, 0, 1, 120] ++ List.replicate 15 0) =
      some (.evtCacheChange 0xED8D 0x3A83126F (.number (-120)), []) := by decide
theorem test_decode_errChecksumMismatch :
    decoded .errorCode [1, 1, 0, 0, 0, 0x35] = some (.errChecksumMismatch [0x35], []) := by decide
theorem test_decode_errInvalidLabelChar : decoded .errorCode [2, 0x2D] = some (.errInvalidLabelChar 0x2D, []) := by decide
theorem test_decode_errLabelTooLong : decoded .errorCode [3] = some (.errLabelTooLong, []) := by decide
theorem test_decode_errUnknownRegister :
    decoded .errorCode [4, 0x34, 0x12, 7] = some (.errUnknownRegister 0x1234 7, []) := by decide
theorem test_decode_errPayloadTooShort :
    decoded .errorCode [5, 7, 45, 0, 0, 0] = some (.errPayloadTooShort 7 45, []) := by decide

/-! ### Words that are refused, by name -/

theorem test_refuse_badCommand : decode .vehexFrame [0x10] = .error .badCommand := rfl
theorem test_refuse_badKind :
    decode .descriptorKind ([5, 0, 0, 1] ++ List.replicate 16 0) = .error (.badDescriptor .badKind) := rfl
theorem test_refuse_emptyMapOnWrongKind :
    decode .descriptorKind ([0, 0, 0, 1, 0, 0, 0, 0, 1] ++ List.replicate 9 0) =
      .error (.badDescriptor .mapOnWrongKind) := rfl
theorem test_refuse_badEventTag : decode .eventTag [5] = .error .badEventTag := rfl
theorem test_refuse_badErrorCode : decode .errorCode [0] = .error .badErrorCode := rfl
theorem test_refuse_codeTooWide : decode .hostOp [0x1A] = .error .codeTooWide := rfl

/-! ### Host operations (95_test_vectors.md 2.1, 2.3, 2.8, 2.11-2.13) -/

theorem test_rxByte : seen (.rxByte 0x0A) start = some (⟨.readingLabel, [], [], []⟩, []) := by decide
/-- 2.1: `[05 10 43]` is ":51043FD\n". -/
theorem test_encode : answer (.encode [0x05, 0x10, 0x43]) start =
    some (.bytes [0x3A, 0x35, 0x31, 0x30, 0x34, 0x33, 0x46, 0x44, 0x0A]) := by decide
/-- 2.1: the checksum of `[55]` covers the whole command byte. -/
theorem test_encode_high : answer (.encode [0x55]) start = some (.bytes [0x3A, 0x35, 0x30, 0x30, 0x0A]) := by decide
/-- 2.3: ":70:154\n", a second `:` restarts. -/
theorem test_decodeFrame : answer (.decodeFrame [0x3A, 0x37, 0x30, 0x3A, 0x31, 0x35, 0x34, 0x0A]) start =
    some (.decoded (.ok [0x01])) := by decide
/-- 2.3: ":154\r\n", the CR is a raw byte. -/
theorem test_decodeFrame_cr : answer (.decodeFrame [0x3A, 0x31, 0x35, 0x34, 0x0D, 0x0A]) start =
    some (.decoded .fail) := by decide
/-- 2.11: an empty string is refused. -/
theorem test_enqueue : answer (.enqueue []) start = some .refused := by decide
/-- 2.11: the 17th entry is refused. -/
theorem test_enqueue_full : answer (.enqueue [1]) { start with txq := List.replicate 16 [1] } = some .refused := by decide
/-- 2.8: an invalid entry is answered with its old value. -/
theorem test_cacheRead : answer (.cacheRead 0x0104) { start with cache := [(0x0104, ⟨0x3F800000, .number 2, false⟩)] } =
    some (.entry (some ⟨0x3F800000, .number 2, false⟩)) := by decide
theorem test_cacheInvalidate :
    (after (.cacheInvalidate 0x0104) { start with cache := [(0x0104, ⟨0x3F800000, .number 2, true⟩)] }).map State.cache =
      some [(0x0104, ⟨0x3F800000, .number 2, false⟩)] := by decide
/-- 2.12: after RX "\nSER#" and "\tABC". -/
theorem test_csrRead : answer (.csrRead 0x08) (parsing .readingValue [0x53, 0x45, 0x52, 0x23] [0x41, 0x42, 0x43] []) =
    some (.word 0x00000343) := by decide
/-- R302: BCNT = 3 and two entries queued. -/
theorem test_csrRead_qstat : answer (.csrRead 0x0C) { start with bcnt := 3, txq := [[1], [3]] } =
    some (.word 0x00000203) := by decide
/-- 2.12: 0x123 to BTHR keeps 0x23. -/
theorem test_csrWrite : (after (.csrWrite 0x04 0x123) start).map State.bthr = some 0x23 := by decide
theorem test_csrWrite_ctrl :
    (after (.csrWrite 0x00 0xFFFFFFFF) start).map (fun t => t.csr 0x00) = some 0x00000003 := by decide
/-- 2.13: the queue and the threshold survive. -/
theorem test_sessionReset :
    (after .sessionReset { parsing .readingHexDigits [] [] [0x37] with bthr := 5, txq := [[1]], bcnt := 2 }).map
      (fun t => (t.parser, t.bthr, t.txq, t.bcnt)) = some (Parser.start, 5, [[1]], 0) := by decide
theorem test_reset :
    (after .reset { parsing .readingHexDigits [] [] [0x37] with bthr := 5, txq := [[1]], echoEn := true }).map
      (fun t => (t.parser, t.bthr, t.txq, t.echoEn)) = some (Parser.start, 9, [], false) := by decide
theorem test_reservedOp : answer (.reservedOp 0xA) start = some .refused := by decide

/-! ### The record parser (95_test_vectors.md 2.4, 2.5) -/

theorem test_byteColon : seen .byteColon (parsing .readingValue [0x56] [0x31, 0x32] []) =
    some (⟨.readingHexDigits, [], [], []⟩, []) := by decide
theorem test_byteTab : seen .byteTab (parsing .readingLabel [0x56] [] []) =
    some (⟨.sawTab, [0x56], [], []⟩, []) := by decide
theorem test_byteTab_value : seen .byteTab (parsing .readingValue [0x56] [0x31] []) =
    some (⟨.readingValue, [0x56], [0x31], []⟩, []) := by decide
/-- R178: "V", "12850". -/
theorem test_byteCr : seen .byteCr (parsing .readingValue [0x56] [0x31, 0x32, 0x38, 0x35, 0x30] []) =
    some (⟨.readingLabel, [], [], []⟩,
      [.textField [0x56] [0x31, 0x32, 0x38, 0x35, 0x30], .cacheChange 0xED8D 0x3A83126F (.number 12850)]) := by decide
/-- R180: "155" fails its checksum. -/
theorem test_byteCr_bad : seen .byteCr (parsing .readingHexDigits [] [] [0x31, 0x35, 0x35]) =
    some (⟨.idle, [], [], []⟩, [.error (.checksumMismatch [0x31, 0x35, 0x35])]) := by decide
/-- R180: "154". -/
theorem test_byteLf : seen .byteLf (parsing .readingHexDigits [] [] [0x31, 0x35, 0x34]) =
    some (⟨.idle, [], [], []⟩, [.frame ⟨[1], none, none, [1], [0x31, 0x35, 0x34]⟩]) := by decide
theorem test_byteLf_empty : seen .byteLf (parsing .readingHexDigits [] [] []) =
    some (⟨.readingLabel, [], [], []⟩, []) := by decide
/-- R183: the tenth label byte. -/
theorem test_byteHexdig : seen (.byteHexdig 0x41) (parsing .readingLabel (List.replicate 9 0x42) [] []) =
    some (⟨.idle, [], [], []⟩, [.error .labelTooLong]) := by decide
theorem test_byteHexdig_hex : seen (.byteHexdig 0x35) (parsing .readingHexDigits [] [] [0x31]) =
    some (⟨.readingHexDigits, [], [], [0x31, 0x35]⟩, []) := by decide
theorem test_byteLabelOnly : seen (.byteLabelOnly 0x23) (parsing .readingLabel [0x53, 0x45, 0x52] [] []) =
    some (⟨.readingLabel, [0x53, 0x45, 0x52, 0x23], [], []⟩, []) := by decide
/-- 2.4: a byte that is no hex digit is dropped in hex mode. -/
theorem test_byteLabelOnly_hex : seen (.byteLabelOnly 0x47) (parsing .readingHexDigits [] [] [0x31]) =
    some (⟨.readingHexDigits, [], [], [0x31]⟩, []) := by decide
/-- 2.4: an invalid tenth byte is InvalidLabelChar. -/
theorem test_byteOther : seen (.byteOther 0x20) (parsing .readingLabel (List.replicate 9 0x41) [] []) =
    some (⟨.idle, [], [], []⟩, [.error (.invalidLabelChar 0x20)]) := by decide
/-- 2.5: what Idle discards is echoed. -/
theorem test_byteOther_echo :
    (after (.byteOther 0x2D) { start with echoEn := true }).map State.echo = some [0x2D] := by decide

/-! ### The dispatch (95_test_vectors.md 2.6) -/

theorem test_ping : events (.ping [] [0x31, 0x35, 0x34]) start =
    some [.frame ⟨[1], none, none, [1], [0x31, 0x35, 0x34]⟩] := by decide
theorem test_appver : events (.appver [] []) start = some [.frame ⟨[3], none, none, [3], []⟩] := by decide
theorem test_productId : events (.productId [] []) start = some [.frame ⟨[4], none, none, [4], []⟩] := by decide
theorem test_pingResponse : events (.pingResponse [0x10, 0x43] []) start =
    some [.frame ⟨[5, 0x10, 0x43], some 0x4310, none, [5, 0x10, 0x43], []⟩] := by decide
theorem test_pingResponse_short : events (.pingResponse [0x10] []) start =
    some [.error (.payloadTooShort 5 2)] := by decide
theorem test_restart : events (.restart [] []) start = some [.frame ⟨[6], none, none, [6], []⟩] := by decide
theorem test_get : events (.get [4, 1, 0, 2] []) start =
    some [.frame ⟨[7, 4, 1, 0, 2], some 0x0104, some 0, [7, 4, 1, 0], []⟩,
      .cacheChange 0x0104 0x3F800000 (.number 2)] := by decide
/-- 2.7: unknown id, flags 0x05. -/
theorem test_get_unknown : events (.get [0x34, 0x12, 5, 0] []) start =
    some [.frame ⟨[7, 0x34, 0x12, 5, 0], some 0x1234, some 5, [7, 0x34, 0x12, 5], []⟩,
      .error (.unknownRegister 0x1234 5)] := by decide
/-- 2.7: unknown id, flags 0xFF. -/
theorem test_set : events (.set [0x34, 0x12, 0xFF, 0] []) start =
    some [.frame ⟨[8, 0x34, 0x12, 0xFF, 0], some 0x1234, some 0xFF, [8, 0x34, 0x12, 0xFF], []⟩,
      .error (.unknownRegister 0x1234 7)] := by decide
theorem test_async : events (.async [0xD5, 0xED, 0, 0xE8, 4] []) start =
    some [.frame ⟨[0xA, 0xD5, 0xED, 0, 0xE8, 4], some 0xEDD5, some 0, [1, 0xD5, 0xED, 0], []⟩,
      .cacheChange 0xEDD5 0x3C23D70A (.number 1256)] := by decide
theorem test_async_short : events (.async [0xD5, 0xED] []) start = some [.error (.payloadTooShort 0xA 3)] := by decide
theorem test_unassignedCmd : events (.unassignedCmd 0xF [1, 2] []) start =
    some [.frame ⟨[0xF, 1, 2], none, none, [0xF], []⟩] := by decide

/-! ### The decode strategies (95_test_vectors.md 2.7) -/

theorem test_descScalarNumeric : events (.descScalarNumeric 0xF004 .u32 0x3DCCCCCD [7, 4, 0xF0, 0, 0x78, 0x56, 0x34, 0x12])
    start = some [.cacheChange 0xF004 0x3DCCCCCD (.number 305419896)] := by decide
theorem test_descScalarNumeric_short : events (.descScalarNumeric 0xEDD5 .u16 0 [7, 0xD5, 0xED, 0, 0xE8]) start =
    some [.error (.payloadTooShort 7 5)] := by decide
theorem test_descBitFlags : events (.descBitFlags 0xF001 .u32 0x3F800000 [7, 1, 0xF0, 0, 5, 0, 0, 0x80]) start =
    some [.cacheChange 0xF001 0x3F800000 (.str (.flagSet 5))] := by decide
theorem test_descEnum : events (.descEnum 0xF002 .u8 0x3F800000 [⟨0, [0x30]⟩, ⟨1, [0x31]⟩] [7, 2, 0xF0, 0, 1]) start =
    some [.cacheChange 0xF002 0x3F800000 (.str (.enumLabel [0x31]))] := by decide
theorem test_descEnum_unmapped :
    events (.descEnum 0xF002 .u8 0x3F800000 [⟨0, [0x30]⟩, ⟨1, [0x31]⟩] [7, 2, 0xF0, 0, 7]) start =
      some [.cacheChange 0xF002 0x3F800000 (.number 7)] := by decide
theorem test_descCompositeRecord :
    events (.descCompositeRecord 0xF005 .u8 0x3F800000 [.u16, .u32] [7, 5, 0xF0, 0, 1, 0x34, 0x12, 0x78, 0x56, 0x34, 0x12])
      start = some [.cacheChange 0xF005 0x3F800000 (.composite [(.u8, 1), (.u16, 4660), (.u32, 305419896)])] := by decide
theorem test_descCompositeRecord_short :
    events (.descCompositeRecord 0xF005 .u8 0x3F800000 [.u16, .u32] [7, 5, 0xF0, 0, 1, 0x34, 0x12, 0x78]) start =
      some [.error (.payloadTooShort 7 8)] := by decide
theorem test_descRawString :
    events (.descRawString 0xF003 .u8 0x3F800000 [7, 3, 0xF0, 0, 0x42, 0x6C, 0x75, 0x65, 0, 0x7A, 0x7A]) start =
      some [.cacheChange 0xF003 0x3F800000 (.str (.bytes [0x42, 0x6C, 0x75, 0x65]))] := by decide

/-! ### Events and errors -/

theorem test_evtTextField : events (.evtTextField [0x56] [0x31]) start = some [.textField [0x56] [0x31]] := by decide
theorem test_evtFrame : events (.evtFrame ⟨[1], none, none, [1], []⟩) start =
    some [.frame ⟨[1], none, none, [1], []⟩] := by decide
theorem test_evtError : events (.evtError .labelTooLong) start = some [.error .labelTooLong] := by decide
theorem test_evtCacheChange : events (.evtCacheChange 1 2 (.number 3)) start = some [.cacheChange 1 2 (.number 3)] := by
  decide
theorem test_errChecksumMismatch : seen (.errChecksumMismatch [0x31]) (parsing .readingHexDigits [] [] [0x31]) =
    some (Parser.start, [.error (.checksumMismatch [0x31])]) := by decide
theorem test_errInvalidLabelChar : seen (.errInvalidLabelChar 0x2D) (parsing .readingLabel [0x54] [] []) =
    some (Parser.start, [.error (.invalidLabelChar 0x2D)]) := by decide
theorem test_errLabelTooLong : seen .errLabelTooLong (parsing .readingLabel [0x54] [] []) =
    some (Parser.start, [.error .labelTooLong]) := by decide
theorem test_errUnknownRegister : seen (.errUnknownRegister 0x1234 5) start =
    some (Parser.start, [.error (.unknownRegister 0x1234 5)]) := by decide
theorem test_errPayloadTooShort : seen (.errPayloadTooShort 7 4) start =
    some (Parser.start, [.error (.payloadTooShort 7 4)]) := by decide

/-! ### The text path and the pacing (95_test_vectors.md 2.9, 2.10) -/

theorem test_parseDec : parseDec [0x2D, 0x31, 0x32, 0x30] = some (-120) := by decide
theorem test_parseDec_point : parseDec [0x31, 0x32, 0x2E, 0x35] = none := by decide
/-- The ninth counted field transmits the queued GET: ":7D5ED008C\n". -/
theorem test_burst : ({ start with bcnt := 8, txq := [[0x07, 0xD5, 0xED, 0x00]] }.burstCount [0x48, 0x43, 0x23]).tx =
    [0x3A, 0x37, 0x44, 0x35, 0x45, 0x44, 0x30, 0x30, 0x38, 0x43, 0x0A] := by decide
theorem test_burst_saturates : ({ start with bcnt := 255 }.burstCount [0x56]).bcnt = 255 := by decide

/-! ### Building an instance, and one step -/

theorem test_build_badWidth :
    build ⟨[⟨0x0104, 0, 3, 0, none, none⟩], [], [], 1025, 16, .reject⟩ = .error (.badDescriptor .badWidth) := rfl
theorem test_build_repeatedId :
    build ⟨[⟨0x0104, 0, 1, 0, none, none⟩, ⟨0x0104, 1, 1, 0, none, none⟩], [], [], 1025, 16, .reject⟩ =
      .error .repeatedId := rfl
theorem test_build_emptyMapOnWrongKind :
    build ⟨[⟨0x0104, 0, 1, 0, some [], none⟩], [], [], 1025, 16, .reject⟩ =
      .error (.badDescriptor .mapOnWrongKind) := rfl
theorem test_build_emptyFieldsOnWrongKind :
    build ⟨[⟨0x0104, 4, 1, 0, none, some []⟩], [], [], 1025, 16, .reject⟩ =
      .error (.badDescriptor .fieldsOnWrongKind) := rfl
theorem test_step_waits : step start = .next start := rfl
theorem test_fetch_word (s : State) : step (s.withFetchWord 8 0x9) = exec .reset s := rfl

/-! ### Witnesses: a state and operands that meet the hypotheses of each statement that has some, clause by clause -/

theorem witness_DecodeEncodeRoundTrip : (Instr.get [4, 1, 0, 2] [0x31, 0x35, 0x34]).WellFormed := by decide

theorem witness_DecodedInstructionIsWellFormed : decode .hostOp [0x6, 0x08, 0xFF] = .ok (.csrRead 0x08, [0xFF]) := rfl

/-- A state with one request pending. -/
def waiting : State := { start with pending := [⟨.hostOp, [0x6, 0x08]⟩] }

theorem witness_StepRunsDecodedInstruction :
    waiting.pending = ⟨.hostOp, [0x6, 0x08]⟩ :: [] ∧ decode .hostOp [0x6, 0x08] = .ok (.csrRead 0x08, []) := ⟨rfl, rfl⟩

theorem witness_IssuedOperationsRunInOrder :
    (∀ i ∈ [Instr.rxByte 0x0A, .csrRead 0x08, .evtError .labelTooLong], i.WellFormed) ∧ start.pending = [] := by decide

theorem witness_EncodeAnswersTheFrame :
    ([] : Bytes).length < 1 ∧ 512 < (List.replicate 513 (0 : Byte)).length ∧
    1 ≤ [(0 : Byte)].length ∧ (List.replicate 512 (0 : Byte)).length ≤ 512 := by
  refine ⟨by decide, ?_, by decide, ?_⟩ <;> rw [List.length_replicate]
  decide

theorem witness_CodecRoundTrip :
    1 ≤ (List.replicate 512 (0x0F : Byte)).length ∧ (List.replicate 512 (0x0F : Byte)).length ≤ 512 ∧
    (List.replicate 512 (0x0F : Byte)).headD 0 ≤ 0x0F := by
  refine ⟨?_, ?_, by decide⟩ <;> rw [List.length_replicate]
  decide

theorem witness_EvenDigitCounts : ([0x31, 0x35, 0x34, 0x46] : Bytes).length % 2 = 0 ∧
    ([0x31, 0x35, 0x34, 0x46] : Bytes) ≠ [] := by decide

theorem witness_DecodedBufferShape :
    hexval 0x66 = some 0xF ∧ hexval 0x67 = none ∧
    (∀ b ∈ ([0x31, 0x35, 0x34] : Bytes), ishex b = true) ∧ 2 ≤ (([0x35, 0x35, 0x35, 0x30, 0x30] : Bytes).length - 1) / 2 ∧
    ([0x31] : Bytes).length < 3 ∧ (∃ b ∈ ([0x35, 0x35, 0x58] : Bytes), ishex b = false) ∧
    hexDecode .reject true [0x31, 0x35, 0x34] = some [0x01] ∧
    hexDecode .ignoreLast false [0x31, 0x35, 0x34, 0x46] = some [0x01] := by decide

theorem witness_FrameRecordRoundTrip :
    frameValid ⟨0x0F, 0xFFFF, 0xFF, List.replicate 508 0⟩ = true ∧ 4 ≤ ([7, 4, 1, 0] : Bytes).length := by
  refine ⟨?_, by decide⟩
  rw [frameValid, List.length_replicate]
  decide

theorem witness_HighCommandNeverDecodes :
    1 ≤ ([0x10] : Bytes).length ∧ ([0x10] : Bytes).length ≤ 512 ∧ (0x0F : Byte) < ([0x10] : Bytes).headD 0 ∧
    (0x0F : Byte) < ([0xFF] : Bytes).headD 0 := by decide

theorem witness_SingleBitFlipIsDetected :
    sumValid [0x07, 0x04, 0x01, 0x00, 0x02, 0x47] = true ∧ 5 < ([0x07, 0x04, 0x01, 0x00, 0x02, 0x47] : Bytes).length := by
  decide

theorem witness_DecodeFrameReadsTheFirstFrame :
    chColon ∉ ([0x78, 0x0A] : Bytes) ∧ chLf ∉ ([0x3A, 0x37, 0x30] : Bytes) ∧ chColon ∉ ([0x31, 0x35, 0x34] : Bytes) ∧
    chLf ∉ ([0x31, 0x35, 0x34] : Bytes) := by decide

theorem witness_CacheReadAnswersTheEntry :
    cacheWf [(0x0104, ⟨0, .number 2, true⟩), (0xEDD5, ⟨0, .number 3, false⟩)] = true := by decide

theorem witness_CacheInvalidateClearsValid :
    (0xEDD5 : RegId) ≠ 0x0104 ∧ cacheFind 0x0104 start.cache = none := by decide

theorem witness_CsrReadAnswersTheMap :
    (List.replicate 9 (0x41 : Byte)).length ≤ 9 ∧ (List.replicate 33 (0x41 : Byte)).length ≤ 33 ∧
    (List.replicate 2047 (0x41 : Byte)).length ≤ 2047 ∧ (List.replicate 65535 ([0x01] : Bytes)).length ≤ 65535 ∧
    start.cache.length ≤ 65536 ∧
    ((0x14 : Byte) ≠ 0x00 ∧ (0x14 : Byte) ≠ 0x04 ∧ (0x14 : Byte) ≠ 0x08 ∧ (0x14 : Byte) ≠ 0x0C ∧ (0x14 : Byte) ≠ 0x10) := by
  refine ⟨?_, ?_, ?_, ?_, by decide, by decide⟩ <;> rw [List.length_replicate]

theorem witness_FreshLineBeginsARecord :
    start.parser.ps = .idle ∧ (parsing .readingLabel [0x56] [] []).parser.ps = .readingLabel ∧
    (parsing .sawTab [0x56] [] []).parser.ps = .sawTab ∧
    ((parsing .readingValue [] [0x31] []).parser.ps = .readingValue ∧ (parsing .readingValue [] [0x31] []).parser.lbuf = []) ∧
    ((parsing .readingHexDigits [] [] []).parser.ps = .readingHexDigits ∧
      (parsing .readingHexDigits [] [] []).parser.hbuf = []) := by decide

theorem witness_RecordCompletes :
    (parsing .readingValue [0x56] [0x31] []).parser.ps = .readingValue ∧
    (parsing .readingValue [0x56] [0x31] []).parser.lbuf ≠ [] := by decide

theorem witness_HexFrameEnds :
    (parsing .readingHexDigits [] [] [0x31, 0x35, 0x34]).parser.ps = .readingHexDigits ∧
    (parsing .readingHexDigits [] [] [0x31, 0x35, 0x34]).parser.hbuf ≠ [] ∧
    (hexDecode .reject false [0x31, 0x35, 0x34]).isSome = true ∧ (hexDecode .reject false [0x31]).isSome = false := by decide

theorem witness_LabelBytes : (parsing .readingLabel (List.replicate 9 0x41) [] []).parser.ps = .readingLabel := rfl

theorem witness_OtherBytesOutsideALabel :
    start.parser.ps = .idle ∧ (parsing .sawTab [0x56] [] []).parser.ps = .sawTab ∧
    (parsing .readingValue [0x56] (List.replicate 33 0x31) []).parser.ps = .readingValue ∧
    (parsing .readingHexDigits [] [] [0x31]).parser.ps = .readingHexDigits ∧ Instr.byteOther 0x00 ∈ otherRows 0x00 := by
  decide

theorem start_inv : start.Inv :=
  ⟨⟨by decide, by decide, by decide, by decide, by decide, by decide⟩, ⟨rfl, rfl, rfl⟩, rfl, ⟨by decide, by decide⟩⟩

theorem witness_ErrorsLeaveTheParserIdle : ∃ (s t : State) (e : BlockError), s.Inv ∧
    exec (.rxByte 0x2D) s = .next t ∧ t.evt = s.evt ++ [.error e] :=
  ⟨parsing .readingLabel [0x54] [] [], _, .invalidLabelChar 0x2D,
    ⟨⟨by decide, by decide, by decide, by decide, by decide, by decide⟩, ⟨rfl, rfl⟩, rfl, ⟨by decide, by decide⟩⟩,
    rfl, by decide⟩

theorem witness_TextFieldsAreNonEmpty : ∃ (s t : State) (new : List Event), s.Inv ∧
    exec (.rxByte 0x0D) s = .next t ∧ t.evt = s.evt ++ new ∧ Event.textField [0x54] [0x31] ∈ new :=
  ⟨parsing .readingValue [0x54] [0x31] [], _, [.textField [0x54] [0x31]],
    ⟨⟨by decide, by decide, by decide, by decide, by decide, by decide⟩, ⟨by simp [parsing], rfl⟩, rfl,
      ⟨by decide, by decide⟩⟩,
    rfl, by decide, by decide⟩

theorem witness_RxByteWritesOnly : cacheFind 1 [(1, ⟨0, .number 0, true⟩)] ≠ none := by decide

theorem witness_ParserIsDeterministic : ∃ s t : State, s.Inv ∧ t.Inv ∧ s.parser = t.parser ∧ s.echoEn = t.echoEn ∧
    s.cfg = t.cfg ∧ s.hexStrict ≠ t.hexStrict ∧ s.bcnt ≠ t.bcnt :=
  ⟨start, { start with hexStrict := true, bcnt := 3 }, start_inv,
    ⟨start_inv.parser_bounded, start_inv.parser_shaped, rfl, start_inv.queue_bounded⟩, rfl, rfl, rfl, by decide, by decide⟩

theorem witness_EncodedFrameIsReceived :
    (0x0F : Byte) ≤ 0x0F ∧ (List.replicate 511 (0 : Byte)).length ≤ 511 ∧
    2 * (List.replicate 511 (0 : Byte)).length + 3 ≤ start.cfg.hexCap := by
  refine ⟨by decide, ?_, ?_⟩ <;> rw [List.length_replicate]
  decide

theorem witness_TextRecordIsReceived :
    (parsing .readingLabel [] [] []).parser = ⟨.readingLabel, [], [], []⟩ ∧
    (∀ b ∈ List.replicate 9 (0x23 : Byte), islabel b = true ∧ b ≠ chColon) ∧
    (∀ b ∈ List.replicate 33 (0x00 : Byte), b ≠ chColon ∧ b ≠ chTab ∧ b ≠ chCr ∧ b ≠ chLf) := by decide

theorem witness_RegisterFramesRejected :
    ((0x0A, 0x01, Instr.async) : Byte × Byte × (Bytes → Bytes → Instr)) ∈ registerRows ∧
    ([4, 1] : Bytes).length < 3 ∧ ([4, 1, 0] : Bytes).length = 3 ∧ 4 ≤ ([0x34, 0x12, 5, 0] : Bytes).length ∧
    ∀ x ∈ start.cfg.regTable, x.id ≠ BitVec.ofNat 16 (memRead [0x0A, 0x34, 0x12, 5, 0] 1 2) := by
  refine ⟨by simp [registerRows], by decide, by decide, by decide, by decide⟩

theorem witness_RegisterFramesDecode :
    4 ≤ ([4, 1, 0, 2] : Bytes).length ∧ Config.idsUnique start.cfg.regTable = true ∧ Config.desc0104 ∈ start.cfg.regTable ∧
    Config.desc0104.id = BitVec.ofNat 16 (memRead [0x07, 4, 1, 0, 2] 1 2) ∧
    decodeValue Config.desc0104.body [0x07, 4, 1, 0, 2] = some (.number 2) := by decide

theorem witness_MemReadIsLittleEndian :
    3 + 1 ≤ ([1, 2, 3, 4] : Bytes).length ∧ 2 + 2 ≤ ([1, 2, 3, 4] : Bytes).length ∧ 0 + 4 ≤ ([1, 2, 3, 4] : Bytes).length := by
  decide

theorem witness_BitFlagsStoresTheSet :
    ([7, 1, 0xF0, 0, 5, 0, 0] : Bytes).length < 4 + Width.u32.bytes ∧
    4 + Width.u32.bytes ≤ ([7, 1, 0xF0, 0, 5, 0, 0, 0x80] : Bytes).length := by decide

theorem witness_EnumStoresTheLabel :
    ([7, 2, 0xF0, 0] : Bytes).length < 4 + Width.u8.bytes ∧ 4 + Width.u8.bytes ≤ ([7, 2, 0xF0, 0, 1] : Bytes).length ∧
    [(⟨0, [0x30]⟩ : EnumEntry), ⟨1, [0x31]⟩] = [⟨0, [0x30]⟩] ++ ⟨1, [0x31]⟩ :: [] ∧
    (⟨1, [0x31]⟩ : EnumEntry).raw.toNat = memRead [7, 2, 0xF0, 0, 1] 4 1 ∧
    (∀ x ∈ [(⟨0, [0x30]⟩ : EnumEntry)], x.raw.toNat ≠ memRead [7, 2, 0xF0, 0, 1] 4 1) ∧
    (∀ x ∈ [(⟨0, [0x30]⟩ : EnumEntry), ⟨1, [0x31]⟩], x.raw.toNat ≠ memRead [7, 2, 0xF0, 0, 7] 4 1) := by decide

theorem witness_CompositeRecordStoresFields :
    ([7, 5, 0xF0, 0, 1, 0x34, 0x12, 0x78, 0x56, 0x34] : Bytes).length < 5 + ([Width.u16, .u32].map Width.bytes).sum ∧
    5 + ([Width.u16, .u32].map Width.bytes).sum ≤ ([7, 5, 0xF0, 0, 1, 0x34, 0x12, 0x78, 0x56, 0x34, 0x12] : Bytes).length := by
  decide

theorem witness_SetRegisterNotifiesOnChange :
    cacheFind 1 [(1, ⟨5, .number 2, true⟩)] = some ⟨5, .number 2, true⟩ ∧
    cacheFind 1 [(1, ⟨5, .number 2, false⟩)] ≠ some ⟨5, .number 2, true⟩ ∧ (2 : RegId) ≠ 1 := by decide

theorem witness_TextClassifierSetsTheRegister :
    start.cfg.textMap = [Config.textV] ++ ⟨[0x54, 0x58, 0x31], 0xF011, 0x3F800000, .text⟩ :: [] ∧
    (∀ x ∈ [Config.textV], x.label ≠ [0x54, 0x58, 0x31]) ∧ Config.textV.parse = .decimal ∧
    ∀ x ∈ start.cfg.textMap, x.label ≠ [0x76] := by decide

theorem witness_ParseDecAcceptsIntegers :
    ([0x30, 0x39] : Bytes) ≠ [] ∧ (∀ b ∈ ([0x30, 0x39] : Bytes), 0x30 ≤ b ∧ b ≤ 0x39) ∧ parseDec [0x2D, 0x30] ≠ none := by
  decide

theorem witness_BurstCountDrainsTheQueue :
    ([0x58] : Bytes) ∉ start.cfg.burstLabels ∧ ([0x56] : Bytes) ∈ start.cfg.burstLabels ∧
    min (start.bcnt.toNat + 1) 255 < max start.bthr.toNat 1 ∧
    ({ start with txq := [[1], [3]], bthr := 0 } : State).txq = [1] :: [[3]] ∧
    max ({ start with txq := [[1], [3]], bthr := 0 } : State).bthr.toNat 1 ≤ min (start.bcnt.toNat + 1) 255 := by decide

theorem witness_OnlyCountedTextFieldsTransmit : ∃ t : State,
    exec .byteCr { parsing .readingValue [0x56] [0x2B] [] with txq := [[0x01]], bcnt := 8 } = .next t ∧
    t.tx ≠ ({ parsing .readingValue [0x56] [0x2B] [] with txq := [[0x01]], bcnt := 8 } : State).tx :=
  ⟨_, rfl, by decide⟩

theorem witness_BuildRefusesIllFormed : ∃ s,
    build ⟨[⟨0x0104, 0, 1, 0, none, none⟩, ⟨0xF002, 2, 1, 0, some [], none⟩, ⟨0x1070, 3, 1, 0, none, some [4, 2, 1]⟩],
        [Config.textV], Config.burstLabels, 3, 1, .reject⟩ =
      .ok s := ⟨_, rfl⟩

theorem witness_StepKeepsTheInvariant : waiting.Inv ∧ ∃ t, step waiting = .next t :=
  ⟨⟨start_inv.parser_bounded, start_inv.parser_shaped, rfl, start_inv.queue_bounded⟩, _, rfl⟩

end Sys2Proof.Tests
end

section
/-! SUPPORT. What HexDecode answers (spec 40_frame_codec.md R142, R144-R147): the digit values, the bytes an odd digit
string spells, and the one condition under which a digit string decodes. -/

namespace Sys2Proof.Machine

/-! ### Digit values -/

/-- The lowercase digit of a nibble; `hexu` is the uppercase one (00_scope.md R17). -/
def hexl (v : BitVec 4) : Byte :=
  [0x30, 0x31, 0x32, 0x33, 0x34, 0x35, 0x36, 0x37, 0x38, 0x39, 0x61, 0x62, 0x63, 0x64, 0x65, 0x66].getD v.toNat 0

theorem hexu_eq_getD : ∀ v : BitVec 4, hexu v =
    [0x30, 0x31, 0x32, 0x33, 0x34, 0x35, 0x36, 0x37, 0x38, 0x39, 0x41, 0x42, 0x43, 0x44, 0x45, 0x46].getD v.toNat 0 := by
  decide

theorem hexval_hexl : ∀ v : BitVec 4, hexval (hexl v) = some v := by decide

/-- Over all 256 bytes: one that has a digit value is one of the two digits of that value. -/
theorem eq_hexu_or_hexl_of_mem_hexval : ∀ c : Byte, ∀ v ∈ hexval c, c = hexu v ∨ c = hexl v := by decide

theorem hexval_eq_some_iff (c : Byte) (v : BitVec 4) : hexval c = some v ↔ c = hexu v ∨ c = hexl v := by
  constructor
  · exact eq_hexu_or_hexl_of_mem_hexval c v
  · rintro (rfl | rfl)
    · exact hexval_hexu v
    · exact hexval_hexl v

theorem ishex_and_nib_of_hexval_some {c : Byte} {v : BitVec 4} (h : hexval c = some v) :
    ishex c = true ∧ nib c = v := by simp [ishex, nib, h]

theorem ishex_and_nib_of_hexval_none {c : Byte} (h : hexval c = none) : ishex c = false ∧ nib c = 0 := by
  simp [ishex, nib, h]

/-! ### The bytes of an odd digit string -/

@[simp] theorem length_digitBytes_cons (c : Byte) (ds : Bytes) :
    (digitBytes (c :: ds)).length = ds.length / 2 + 1 := by simp [digitBytes]

theorem length_digitBytes {h : Bytes} (ho : h.length % 2 = 1) : (digitBytes h).length = (h.length + 1) / 2 := by
  cases h with
  | nil => simp at ho
  | cons c ds => rw [length_digitBytes_cons, List.length_cons]; omega

/-- The command byte is the first digit alone. -/
theorem toNat_getD_zero_digitBytes (h : Bytes) : ((digitBytes h).getD 0 0).toNat = (nib (h.getD 0 0)).toNat := by
  cases h with
  | nil => rfl
  | cons c ds => exact BitVec.toNat_setWidth_of_le (show 4 ≤ 8 by decide)

/-- Every byte after the command byte is a pair of digits, high nibble first. -/
theorem toNat_getD_digitBytes {h : Bytes} {k : Nat} (h1 : 1 ≤ k) (hk : k ≤ (h.length - 1) / 2) :
    ((digitBytes h).getD k 0).toNat =
      16 * (nib (h.getD (2 * k - 1) 0)).toNat + (nib (h.getD (2 * k) 0)).toNat := by
  obtain ⟨j, rfl⟩ := Nat.exists_eq_add_of_le' h1
  cases h with
  | nil => simp at hk
  | cons c ds => exact getD_pairBytes ds j (by rw [List.length_cons] at hk; omega)

theorem setWidth_le_0x0F : ∀ v : BitVec 4, (v.setWidth 8 : Byte) ≤ 0x0F := by decide

/-- The command of a decoded buffer fits one digit (40_frame_codec.md R147). -/
theorem headD_dropLast_digitBytes_le (ds : Bytes) : (digitBytes ds).dropLast.headD 0 ≤ 0x0F := by
  cases ds with
  | nil => decide
  | cons c ds =>
    rw [digitBytes]
    cases pairBytes ds with
    | nil => exact show (0 : Byte) ≤ 0x0F by decide
    | cons x t => exact setWidth_le_0x0F (nib c)

/-! ### The outcome of HexDecode -/

/-- Which digits are left to decode: all of an odd string, all but the last of an even one, which only `ignore_last` lets
through (40_frame_codec.md R145). -/
theorem oddDigits_eq_some_iff {policy : OddDigitPolicy} {h ds : Bytes} :
    oddDigits policy h = some ds ↔
      (h.length % 2 = 1 ∧ ds = h) ∨ (h.length % 2 = 0 ∧ policy = .ignoreLast ∧ ds = h.dropLast) := by
  rcases Nat.mod_two_eq_zero_or_one h.length with he | ho
  · cases policy <;> simp [oddDigits, he, eq_comm]
  · simp [oddDigits, ho, eq_comm]

/-- All that HexDecode asks of a digit string (40_frame_codec.md R142, R144-R146). -/
theorem hexDecode_eq_some_iff {policy : OddDigitPolicy} {strict : Bool} {h d : Bytes} :
    hexDecode policy strict h = some d ↔ ∃ ds, oddDigits policy h = some ds ∧ 3 ≤ ds.length ∧
      (strict = true → ∀ b ∈ ds, ishex b = true) ∧ sumValid (digitBytes ds) = true ∧ (digitBytes ds).dropLast = d := by
  cases ho : oddDigits policy h with
  | none => simp [hexDecode, ho]
  | some ds => cases strict <;> simp [hexDecode, ho]

/-- An odd string of three or more digits that the mode lets through: the sum alone decides (40_frame_codec.md R144). -/
theorem hexDecode_of_admitted (policy : OddDigitPolicy) {strict : Bool} {h : Bytes} (ho : h.length % 2 = 1)
    (h3 : 3 ≤ h.length) (hs : strict = true → ∀ b ∈ h, ishex b = true) :
    hexDecode policy strict h =
      if sumBytes (digitBytes h) % 256 = 0x55 then some ((digitBytes h).take ((h.length - 1) / 2)) else none := by
  have hstrict : (strict && !h.all ishex) = false := by
    cases strict with
    | false => rfl
    | true => simpa using hs rfl
  have htake : (digitBytes h).dropLast = (digitBytes h).take ((h.length - 1) / 2) := by
    rw [List.dropLast_eq_take, length_digitBytes ho, show (h.length + 1) / 2 - 1 = (h.length - 1) / 2 by omega]
  rw [hexDecode_odd policy strict ho, if_neg (by omega), hstrict, htake]
  simp [sumValid]

/-- A string that is too short, or that strict mode does not let through (40_frame_codec.md R144, R146). -/
theorem hexDecode_of_not_admitted (policy : OddDigitPolicy) {strict : Bool} {h : Bytes} (ho : h.length % 2 = 1)
    (hbad : h.length < 3 ∨ (strict = true ∧ ∃ b ∈ h, ishex b = false)) : hexDecode policy strict h = none := by
  rw [hexDecode_odd policy strict ho]
  rcases hbad with hshort | ⟨rfl, hb⟩
  · rw [if_pos hshort]
  · have hstrict : (true && !h.all ishex) = true := by simpa using hb
    simp only [hstrict, if_true, ite_self]

/-- The shape of a decoded buffer, from an odd or an even count (40_frame_codec.md R145-R147). -/
theorem shape_of_hexDecode_eq_some {policy : OddDigitPolicy} {strict : Bool} {h d : Bytes}
    (hd : hexDecode policy strict h = some d) :
    3 ≤ h.length ∧ d.length = (h.length - 1) / 2 ∧ d.headD 0 ≤ 0x0F ∧
      (strict = true → h.length % 2 = 1 → ∀ b ∈ h, ishex b = true) := by
  obtain ⟨ds, hodd, h3, hstrict, -, rfl⟩ := hexDecode_eq_some_iff.mp hd
  have hcmd := headD_dropLast_digitBytes_le ds
  rcases oddDigits_eq_some_iff.mp hodd with ⟨ho, rfl⟩ | ⟨he, -, rfl⟩
  · have hlen := length_digitBytes ho
    exact ⟨h3, by rw [List.length_dropLast, hlen]; omega, hcmd, fun hs _ => hstrict hs⟩
  · rw [List.length_dropLast] at h3
    have hlen := length_digitBytes (h := h.dropLast) (by rw [List.length_dropLast]; omega)
    rw [List.length_dropLast] at hlen
    exact ⟨by omega, by rw [List.length_dropLast, hlen]; omega, hcmd, fun _ ho => by omega⟩

/-- Settles O12: `digitBytes` is the string with its checksum byte that an odd count spells. -/
theorem decodedBufferShape : Obligations.DecodedBufferShape := by
  refine ⟨fun c v => ?_, fun _ _ => ishex_and_nib_of_hexval_some, fun _ => ishex_and_nib_of_hexval_none, ?_,
    fun policy _ _ => hexDecode_of_not_admitted policy, ?_⟩
  · rw [← hexu_eq_getD]
    exact hexval_eq_some_iff c v
  · intro policy strict h ho h3 hs
    exact ⟨digitBytes h, length_digitBytes ho, toNat_getD_zero_digitBytes h, fun _ => toNat_getD_digitBytes,
      hexDecode_of_admitted policy ho h3 hs⟩
  · intro policy strict h d hd
    obtain ⟨h3, hlen, hcmd, hstrict⟩ := shape_of_hexDecode_eq_some hd
    exact ⟨h3, hlen, hcmd, fun hmax => by omega, hstrict⟩

end Sys2Proof.Machine
end

section
/-! SUPPORT. The event and error rows as instructions (spec 30_encoding.md R121, 60_exceptions.md R320): one equation a
row. -/

namespace Sys2Proof.Machine

variable (s : State)

theorem State.emit_eq (e : Event) : s.emit e = { s with trace := s.trace ++ [.evt e] } := rfl

theorem State.takeError_eq (e : BlockError) :
    s.takeError e = { s with parser := ⟨.idle, [], [], []⟩, trace := s.trace ++ [.evt (.error e)] } := rfl

theorem exec_evtTextField (label value : Bytes) :
    exec (.evtTextField label value) s = .next (s.emit (.textField label value)) := rfl

theorem exec_evtFrame (f : FrameEvent) : exec (.evtFrame f) s = .next (s.emit (.frame f)) := rfl

theorem exec_evtError (e : BlockError) : exec (.evtError e) s = .next (s.emit (.error e)) := rfl

theorem exec_evtCacheChange (id : RegId) (sc : Scale) (v : RegValue) :
    exec (.evtCacheChange id sc v) s = .next (s.emit (.cacheChange id sc v)) := rfl

/-- Every error row takes its error as a whole (60_exceptions.md R320, R323). -/
theorem exec_errorInstr (e : BlockError) : exec (errorInstr e) s = .next (s.takeError e) := by
  cases e with
  | checksumMismatch raw => rfl
  | invalidLabelChar b => rfl
  | labelTooLong => rfl
  | unknownRegister id r => rfl
  | payloadTooShort cmd n => rfl

/-- Settles O55, row by row. -/
theorem eventAndErrorRowsAppend : Obligations.EventAndErrorRowsAppend := by
  intro s
  refine ⟨fun label value => ?_, fun f => ?_, fun e => ?_, fun id sc v => ?_, fun e => ?_,
    fun _ => rfl, fun _ => rfl, rfl, fun _ _ => rfl, fun _ _ => rfl⟩
  · rw [exec_evtTextField, State.emit_eq]
  · rw [exec_evtFrame, State.emit_eq]
  · rw [exec_evtError, State.emit_eq]
  · rw [exec_evtCacheChange, State.emit_eq]
  · rw [exec_errorInstr, State.takeError_eq]

end Sys2Proof.Machine
end

section
/-! SUPPORT. Every operation goes on with one next state, ENQUEUE too, the one with two ends. -/

namespace Sys2Proof.Machine

/-- ENQUEUE refuses or appends, and goes on in both cases (45_tx_and_control.md R291). -/
theorem exec_enqueue (bs : Bytes) (s : State) :
    exec (.enqueue bs) s = .next
      (if bs.length < 1 ∨ Config.bufCap < bs.length ∨ s.txq.length = s.cfg.queueDepth then s.withResult (some .refused)
       else { s with txq := s.txq ++ [bs] }.withResult (some .ok)) := by
  show execEnqueue bs s = _
  unfold execEnqueue
  split <;> rfl

/-- Every operation goes on (30_encoding.md R122). -/
theorem exec_eq_next (i : Instr) (s : State) : ∃ t, exec i s = .next t := by
  cases i with
  | enqueue bs => exact ⟨_, exec_enqueue bs s⟩
  | _ => exact ⟨_, rfl⟩

end Sys2Proof.Machine
end

section
/-! SUPPORT. The invariant of 10_state.md R35-R40: one lemma a named operation, then every operation, then the step. -/

namespace Sys2Proof.Machine

/-! ### What the invariant reads -/

/-- The invariant reads the parser, the cache, the queue and the configuration, nothing else. -/
theorem State.Inv.of_fields_eq {s t : State} (h : s.Inv) (hparser : t.parser = s.parser) (hcache : t.cache = s.cache)
    (htxq : t.txq = s.txq) (hcfg : t.cfg = s.cfg) : t.Inv := by
  obtain ⟨hbounded, hshaped, hordered, hqueue⟩ := h
  constructor
  · rwa [hparser, hcfg]
  · rwa [hparser]
  · rwa [hcache]
  · rwa [htxq, hcfg]

theorem QueueBounded.nil (n : Nat) : QueueBounded n [] := ⟨Nat.zero_le n, fun _ he => absurd he List.not_mem_nil⟩

theorem QueueBounded.tail {n : Nat} {e : Bytes} {q : List Bytes} (h : QueueBounded n (e :: q)) : QueueBounded n q :=
  ⟨Nat.le_of_succ_le h.count, fun x hx => h.entries x (List.mem_cons_of_mem e hx)⟩

/-- An entry of 1..512 bytes may join a queue that is not full (10_state.md R40). -/
theorem QueueBounded.concat {n : Nat} {q : List Bytes} (h : QueueBounded n q) (hroom : q.length ≠ n) {e : Bytes}
    (hlo : 1 ≤ e.length) (hhi : e.length ≤ Config.bufCap) : QueueBounded n (q ++ [e]) := by
  have hcount := h.count
  constructor
  · rw [List.length_append, List.length_singleton]; omega
  · intro x hx
    rcases List.mem_append.mp hx with hx | hx
    · exact h.entries x hx
    · rw [List.mem_singleton.mp hx]; exact ⟨hlo, hhi⟩

theorem Parser.Bounded.start (n : Nat) : Parser.start.Bounded n := Parser.Bounded.empty n .idle

theorem Parser.Shaped.start : Parser.start.Shaped := ⟨rfl, rfl, rfl⟩

/-! ### Named operations -/

section
variable {s : State}

theorem State.Inv.emit (h : s.Inv) (e : Event) : (s.emit e).Inv := h.of_fields_eq rfl rfl rfl rfl

theorem State.Inv.raise (h : s.Inv) (e : BlockError) : (s.raise e).Inv := h.emit _

theorem State.Inv.takeError (h : s.Inv) (e : BlockError) : (s.takeError e).Inv :=
  ⟨Parser.Bounded.start _, Parser.Shaped.start, h.cache_ordered, h.queue_bounded⟩

theorem State.Inv.withResult (h : s.Inv) (r : Option HostResult) : (s.withResult r).Inv :=
  h.of_fields_eq rfl rfl rfl rfl

theorem State.Inv.resetAll (s : State) : s.resetAll.Inv :=
  ⟨Parser.Bounded.start _, Parser.Shaped.start, rfl, QueueBounded.nil _⟩

theorem State.Inv.resetSession (h : s.Inv) : s.resetSession.Inv :=
  ⟨Parser.Bounded.start _, Parser.Shaped.start, rfl, h.queue_bounded⟩

theorem State.Inv.csrPut (h : s.Inv) (a : Byte) (v : Word) : (s.csrPut a v).Inv := by
  unfold State.csrPut
  split
  · exact h.of_fields_eq rfl rfl rfl rfl
  · split
    · exact h.of_fields_eq rfl rfl rfl rfl
    · exact h

theorem State.Inv.with_cache (h : s.Inv) {c : Cache} (hc : cacheWf c = true) : { s with cache := c }.Inv :=
  ⟨h.parser_bounded, h.parser_shaped, hc, h.queue_bounded⟩

theorem State.Inv.setRegister (h : s.Inv) (id : RegId) (sc : Scale) (v : RegValue) : (s.setRegister id sc v).Inv :=
  (h.with_cache (State.setRegister_wf h.cache_ordered id sc v)).of_fields_eq (s.setRegister_parser id sc v) rfl
    (s.setRegister_txq id sc v) (s.setRegister_cfg id sc v)

theorem State.Inv.invalidate (h : s.Inv) (id : RegId) : (s.invalidate id).Inv :=
  (h.with_cache (State.invalidate_wf h.cache_ordered id)).of_fields_eq (s.invalidate_parser id) rfl
    (s.invalidate_txq id) (s.invalidate_cfg id)

theorem State.Inv.textClassify (h : s.Inv) (label value : Bytes) : (s.textClassify label value).Inv := by
  rcases s.textClassify_cases label value with e | ⟨m, x, -, -, e⟩ <;> rw [e]
  · exact h
  · exact h.setRegister _ _ _

theorem State.Inv.burstCount (h : s.Inv) (label : Bytes) : (s.burstCount label).Inv := by
  rcases s.burstCount_cases label with ⟨-, e⟩ | ⟨-, e⟩ | ⟨entry, q, -, hq, -, e⟩ <;> rw [e]
  · exact h
  · exact h.of_fields_eq rfl rfl rfl rfl
  · have hqueue := h.queue_bounded
    rw [hq] at hqueue
    exact ⟨h.parser_bounded, h.parser_shaped, h.cache_ordered, hqueue.tail⟩

theorem State.Inv.applyDecoded (h : s.Inv) (id : RegId) (sc : Scale) (d : Bytes) (r : Option RegValue) :
    (s.applyDecoded id sc d r).Inv := by
  rcases s.applyDecoded_cases id sc d r with ⟨-, e⟩ | ⟨v, -, e⟩ <;> rw [e]
  · exact h.raise _
  · exact h.setRegister _ _ _

theorem State.Inv.regDecode (h : s.Inv) (d : Bytes) (id : RegId) (fl : Byte) : (s.regDecode d id fl).Inv := by
  rcases s.regDecode_cases d id fl with ⟨err, e⟩ | ⟨x, v, -, -, -, e⟩ <;> rw [e]
  · exact h.raise _
  · exact h.setRegister _ _ _

theorem State.Inv.dispatchReg (h : s.Inv) (d raw : Bytes) : (s.dispatchReg d raw).Inv := by
  unfold State.dispatchReg
  split
  · exact h.raise _
  · exact (h.emit _).regDecode _ _ _

theorem State.Inv.dispatchPing (h : s.Inv) (d raw : Bytes) : (s.dispatchPing d raw).Inv := by
  unfold State.dispatchPing
  split
  · exact h.raise _
  · exact h.emit _

theorem State.Inv.dispatchNone (h : s.Inv) (d raw : Bytes) : (s.dispatchNone d raw).Inv := h.emit _

theorem State.Inv.dispatch (h : s.Inv) (d raw : Bytes) : (s.dispatch d raw).Inv := by
  unfold State.dispatch
  split
  · exact h.dispatchReg d raw
  · exact h.dispatchPing d raw
  · exact h.dispatchNone d raw

theorem State.Inv.follow (h : s.Inv) (ev : ParserEvent) : (s.follow ev).Inv := by
  cases ev with
  | none => exact h
  | err e => exact h.raise e
  | text label value => exact ((h.emit _).textClassify label value).burstCount label
  | hex d raw => exact h.dispatch d raw

/-- A received byte keeps the invariant if the parser's answer is within the bounds and has the shape. -/
theorem State.Inv.receive (h : s.Inv) (b : Byte) {r : Parser × ParserEvent} (hbounded : r.1.Bounded s.cfg.hexCap)
    (hshaped : r.1.Shaped) : (s.receive b r).Inv := by
  have hparser : { s with parser := r.1, result := none }.Inv := ⟨hbounded, hshaped, h.cache_ordered, h.queue_bounded⟩
  refine State.Inv.follow ?_ r.2
  exact hparser.of_fields_eq (State.echoIf_parser _ _ _) (State.echoIf_cache _ _ _) (State.echoIf_txq _ _ _)
    (State.echoIf_cfg _ _ _)

theorem State.Inv.receive_parseEol (h : s.Inv) (b : Byte) : (s.receive b (parseEol s.cfg s.hexStrict s.parser)).Inv :=
  h.receive b (h.parser_bounded.parseEol _) (h.parser_shaped.parseEol _)

theorem State.Inv.receive_parseLabelClass (h : s.Inv) {b : Byte} (hb : classOf b = .hexdig ∨ classOf b = .labelOnly) :
    (s.receive b (parseLabelClass s.cfg b s.parser)).Inv :=
  h.receive b (h.parser_bounded.parseLabelClass hb) (h.parser_shaped.parseLabelClass b)

end

/-! ### Well-formed instructions -/

/-- What the decoder answers has passed the checks. -/
theorem wellFormed_of_decode_eq_ok {f : Format} {bs rest : Bytes} {i : Instr} (h : decode f bs = .ok (i, rest)) :
    i.WellFormed := by
  obtain ⟨j, bs', -, hchecked⟩ := andThen_eq_ok h
  cases hj : j.problem with
  | some p => rw [hj] at hchecked; cases hchecked
  | none => rw [hj] at hchecked; cases hchecked; exact hj

theorem classOf_of_wellFormed_byteHexdig {b : Byte} (h : (Instr.byteHexdig b).WellFormed) : classOf b = .hexdig := by
  simpa [Instr.checks] using firstProblem_none h

theorem classOf_of_wellFormed_byteLabelOnly {b : Byte} (h : (Instr.byteLabelOnly b).WellFormed) :
    classOf b = .labelOnly := by
  simpa [Instr.checks] using firstProblem_none h

theorem classOf_of_wellFormed_byteOther {b : Byte} (h : (Instr.byteOther b).WellFormed) : classOf b = .other := by
  simpa [Instr.checks] using firstProblem_none h

/-! ### Every operation -/

theorem exec_enqueue_keeps_inv {s t : State} (h : s.Inv) {bs : Bytes} (he : exec (.enqueue bs) s = .next t) :
    t.Inv := by
  rw [exec_enqueue] at he
  cases he
  split
  · exact h.withResult _
  · rename_i haccept
    simp only [not_or, Nat.not_lt] at haccept
    obtain ⟨hlo, hhi, hroom⟩ := haccept
    have hqueued : { s with txq := s.txq ++ [bs] }.Inv :=
      ⟨h.parser_bounded, h.parser_shaped, h.cache_ordered, h.queue_bounded.concat hroom hlo hhi⟩
    exact hqueued.withResult _

/-- A well-formed instruction keeps the invariant. The checks are needed: a BYTE row with a byte of another class could
write a byte into LBUF or VBUF that may not stand there. -/
theorem exec_keeps_inv {i : Instr} {s t : State} (hw : i.WellFormed) (h : s.Inv) (he : exec i s = .next t) : t.Inv := by
  cases i with
  | enqueue bs => exact exec_enqueue_keeps_inv h he
  | rxByte b =>
    cases he
    exact h.receive b (h.parser_bounded.parserStep _ b) (h.parser_shaped.parserStep _ b)
  | encode _ | decodeFrame _ | cacheRead _ | csrRead _ | reservedOp _ => cases he; exact h.withResult _
  | cacheInvalidate id => cases he; exact (h.invalidate id).withResult _
  | csrWrite a v => cases he; exact (h.csrPut a v).withResult _
  | sessionReset => cases he; exact h.resetSession.withResult _
  | reset => cases he; exact (State.Inv.resetAll s).withResult _
  | byteColon => cases he; exact h.receive _ (Parser.Bounded.parseColon _) (Parser.Shaped.parseColon _)
  | byteTab => cases he; exact h.receive _ h.parser_bounded.parseTab h.parser_shaped.parseTab
  | byteCr | byteLf => cases he; exact h.receive_parseEol _
  | byteHexdig b => cases he; exact h.receive_parseLabelClass (.inl (classOf_of_wellFormed_byteHexdig hw))
  | byteLabelOnly b => cases he; exact h.receive_parseLabelClass (.inr (classOf_of_wellFormed_byteLabelOnly hw))
  | byteOther b =>
    cases he
    have hb := classOf_of_wellFormed_byteOther hw
    exact h.receive b (h.parser_bounded.parseOtherClass hb) (h.parser_shaped.parseOtherClass b)
  | ping _ _ | appver _ _ | productId _ _ | restart _ _ | unassignedCmd _ _ _ => cases he; exact h.dispatchNone _ _
  | pingResponse _ _ => cases he; exact h.dispatchPing _ _
  | get _ _ | set _ _ | async _ _ => cases he; exact h.dispatchReg _ _
  | descScalarNumeric _ _ _ _ | descBitFlags _ _ _ _ | descEnum _ _ _ _ _ | descCompositeRecord _ _ _ _ _
  | descRawString _ _ _ _ => cases he; exact h.applyDecoded _ _ _ _
  | evtTextField _ _ | evtFrame _ | evtCacheChange _ _ _ => cases he; exact h.emit _
  | evtError e => cases he; exact h.raise e
  | errChecksumMismatch _ | errInvalidLabelChar _ | errLabelTooLong | errUnknownRegister _ _
  | errPayloadTooShort _ _ => cases he; exact h.takeError _

/-! ### The step and the reset -/

/-- A request that runs spells a well-formed instruction. -/
theorem runRequest_keeps_inv {r : Request} {s t : State} (h : s.Inv) (he : runRequest r s = .next t) : t.Inv := by
  unfold runRequest at he
  split at he
  · rename_i i rest hdecode
    exact exec_keeps_inv (wellFormed_of_decode_eq_ok hdecode) h he
  · cases he

/-- Settles O58: the oldest request leaves the list, which the invariant does not read, and runs. -/
theorem stepKeepsTheInvariant : Obligations.StepKeepsTheInvariant := by
  intro s t h he
  have hstep : stepPending s = .next t := he
  unfold stepPending at hstep
  split at hstep
  · cases hstep; exact h
  · rename_i r rs _
    have htaken : { s with pending := rs }.Inv := h.of_fields_eq rfl rfl rfl rfl
    exact runRequest_keeps_inv htaken hstep

/-- Whatever the configuration, the invariant holds right after RESET (70_reset_and_hazards.md R350). -/
theorem State.ofCfg_inv (c : Cfg) : (State.ofCfg c).Inv :=
  ⟨Parser.Bounded.start _, Parser.Shaped.start, rfl, QueueBounded.nil _⟩

/-- Settles O59. -/
theorem resetMeetsTheInvariant : Obligations.ResetMeetsTheInvariant := State.ofCfg_inv Config.cfg

end Sys2Proof.Machine
end

section
/-! SUPPORT. The output streams (spec 10_state.md R46): every operation appends to the merged trace and does nothing
else with it. -/

namespace Sys2Proof.Machine

/-- A state with another trace. -/
def State.withTrace (s : State) (u : List Output) : State := { s with trace := u }

section
variable (s : State) (u : List Output)

@[simp] theorem State.withTrace_cache : (s.withTrace u).cache = s.cache := rfl
@[simp] theorem State.withTrace_txq : (s.withTrace u).txq = s.txq := rfl
@[simp] theorem State.withTrace_cfg : (s.withTrace u).cfg = s.cfg := rfl

end

/-- From `s`, `f` appends the same outputs whatever the trace holds, and nothing else it does depends on the trace. -/
def AppendsOnly (f : State → State) (s : State) : Prop :=
  ∃ new : List Output, ∀ u : List Output, f (s.withTrace u) = (f s).withTrace (u ++ new)

/-- An operation that leaves the trace as it is. -/
theorem AppendsOnly.of_silent {f : State → State} {s : State}
    (h : ∀ u : List Output, f (s.withTrace u) = (f s).withTrace u) : AppendsOnly f s :=
  ⟨[], fun u => by rw [h u, List.append_nil]⟩

theorem AppendsOnly.comp {f g : State → State} {s : State} (hg : AppendsOnly g (f s)) (hf : AppendsOnly f s) :
    AppendsOnly (fun x => g (f x)) s := by
  obtain ⟨newf, hf⟩ := hf
  obtain ⟨newg, hg⟩ := hg
  refine ⟨newf ++ newg, fun u => ?_⟩
  calc g (f (s.withTrace u))
      = g ((f s).withTrace (u ++ newf)) := by rw [hf u]
    _ = (g (f s)).withTrace (u ++ newf ++ newg) := hg (u ++ newf)
    _ = (g (f s)).withTrace (u ++ (newf ++ newg)) := by rw [List.append_assoc]

/-- A choice between two operations by a test that does not read the trace. -/
theorem AppendsOnly.ite {c : State → Prop} [DecidablePred c] {f g : State → State} {s : State}
    (hc : ∀ u : List Output, c (s.withTrace u) ↔ c s) (hf : AppendsOnly f s) (hg : AppendsOnly g s) :
    AppendsOnly (fun x => if c x then f x else g x) s := by
  unfold AppendsOnly
  simp only [hc]
  split
  · exact hf
  · exact hg

/-- The new outputs stand behind the trace the operation found. -/
theorem AppendsOnly.trace_eq {f : State → State} {s : State} {new : List Output}
    (h : ∀ u : List Output, f (s.withTrace u) = (f s).withTrace (u ++ new)) :
    (f s).trace = s.trace ++ new := congrArg State.trace (h s.trace)

/-! ### Named operations -/

section
variable (s : State)

theorem appendsOnly_out (o : Output) : AppendsOnly (·.out o) s := ⟨[o], fun _ => rfl⟩

theorem appendsOnly_emit (e : Event) : AppendsOnly (·.emit e) s := appendsOnly_out s _

theorem appendsOnly_raise (e : BlockError) : AppendsOnly (·.raise e) s := appendsOnly_out s _

theorem appendsOnly_takeError (e : BlockError) : AppendsOnly (·.takeError e) s := ⟨[.evt (.error e)], fun _ => rfl⟩

theorem appendsOnly_withResult (r : Option HostResult) : AppendsOnly (·.withResult r) s :=
  .of_silent fun _ => rfl

theorem appendsOnly_resetAll : AppendsOnly State.resetAll s := .of_silent fun _ => rfl

theorem appendsOnly_resetSession : AppendsOnly State.resetSession s := .of_silent fun _ => rfl

theorem appendsOnly_id : AppendsOnly (fun x => x) s := .of_silent fun _ => rfl

theorem appendsOnly_csrPut (a : Byte) (v : Word) : AppendsOnly (·.csrPut a v) s := by
  unfold State.csrPut
  exact .ite (fun _ => .rfl) (.of_silent fun _ => rfl)
    (.ite (fun _ => .rfl) (.of_silent fun _ => rfl) (appendsOnly_id s))

theorem appendsOnly_setRegister (id : RegId) (sc : Scale) (v : RegValue) : AppendsOnly (·.setRegister id sc v) s := by
  unfold State.setRegister
  exact .ite (fun _ => .rfl) ⟨[.evt (.cacheChange id sc v)], fun _ => rfl⟩ (appendsOnly_id s)

theorem appendsOnly_invalidate (id : RegId) : AppendsOnly (·.invalidate id) s := by
  refine .of_silent fun u => ?_
  unfold State.invalidate
  simp only [State.withTrace_cache]
  cases cacheFind id s.cache <;> rfl

theorem appendsOnly_textClassify (label value : Bytes) : AppendsOnly (·.textClassify label value) s := by
  unfold AppendsOnly State.textClassify
  simp only [State.withTrace_cfg]
  cases textFind label s.cfg.textMap with
  | none => exact appendsOnly_id s
  | some m =>
    dsimp only
    cases textValue m.parse value with
    | none => exact appendsOnly_id s
    | some v => exact appendsOnly_setRegister s m.id m.scale v

theorem appendsOnly_drain : AppendsOnly State.drain s := by
  unfold State.drain
  refine .ite (fun _ => .rfl) ?_ (appendsOnly_id s)
  unfold AppendsOnly
  simp only [State.withTrace_txq]
  cases s.txq with
  | nil => exact appendsOnly_id s
  | cons e q => exact ⟨[.tx (encodeFrame e)], fun _ => rfl⟩

theorem appendsOnly_burstCount (label : Bytes) : AppendsOnly (·.burstCount label) s := by
  unfold State.burstCount
  exact .ite (fun _ => .rfl)
    ((appendsOnly_drain _).comp (f := fun x => { x with bcnt := satInc x.bcnt }) (.of_silent fun _ => rfl))
    (appendsOnly_id s)

theorem appendsOnly_applyDecoded (id : RegId) (sc : Scale) (d : Bytes) (r : Option RegValue) :
    AppendsOnly (·.applyDecoded id sc d r) s := by
  cases r with
  | none => exact appendsOnly_raise s _
  | some v => exact appendsOnly_setRegister s id sc v

theorem appendsOnly_regDecode (d : Bytes) (id : RegId) (fl : Byte) : AppendsOnly (·.regDecode d id fl) s := by
  unfold State.regDecode
  refine .ite (fun _ => .rfl) (appendsOnly_raise s _) ?_
  unfold AppendsOnly
  simp only [State.withTrace_cfg]
  cases regFind id s.cfg.regTable with
  | none => exact appendsOnly_raise s _
  | some x => exact appendsOnly_applyDecoded s id x.body.scale d _

theorem appendsOnly_dispatchReg (d raw : Bytes) : AppendsOnly (·.dispatchReg d raw) s := by
  unfold State.dispatchReg
  exact .ite (fun _ => .rfl) (appendsOnly_raise s _) ((appendsOnly_regDecode _ d _ _).comp (appendsOnly_emit s _))

theorem appendsOnly_dispatchPing (d raw : Bytes) : AppendsOnly (·.dispatchPing d raw) s := by
  unfold State.dispatchPing
  exact .ite (fun _ => .rfl) (appendsOnly_raise s _) (appendsOnly_emit s _)

theorem appendsOnly_dispatchNone (d raw : Bytes) : AppendsOnly (·.dispatchNone d raw) s := appendsOnly_emit s _

theorem appendsOnly_dispatch (d raw : Bytes) : AppendsOnly (·.dispatch d raw) s := by
  unfold AppendsOnly State.dispatch
  cases cmdClass (frameCmd d) with
  | reg => exact appendsOnly_dispatchReg s d raw
  | ping => exact appendsOnly_dispatchPing s d raw
  | none => exact appendsOnly_dispatchNone s d raw

theorem appendsOnly_echoIf (c : Bool) (b : Byte) : AppendsOnly (·.echoIf c b) s := by
  cases c with
  | false => exact .of_silent fun _ => rfl
  | true => exact appendsOnly_out s _

theorem appendsOnly_follow (ev : ParserEvent) : AppendsOnly (·.follow ev) s := by
  cases ev with
  | none => exact .of_silent fun _ => rfl
  | err e => exact appendsOnly_raise s e
  | text label value =>
    exact (appendsOnly_burstCount _ label).comp
      ((appendsOnly_textClassify _ label value).comp (appendsOnly_emit s (.textField label value)))
  | hex d raw => exact appendsOnly_dispatch s d raw

/-- A received byte, with the parser's answer given: the registers, then the echo, then what follows. -/
theorem appendsOnly_receive (b : Byte) (r : Parser × ParserEvent) : AppendsOnly (·.receive b r) s :=
  (appendsOnly_follow _ r.2).comp
    ((appendsOnly_echoIf _ (echoes s.echoEn s.parser.ps r.1.ps) b).comp
      (f := fun x => { x with parser := r.1, result := none }) (.of_silent fun _ => rfl))

theorem appendsOnly_enqueue (bs : Bytes) :
    AppendsOnly (fun x =>
      if bs.length < 1 ∨ Config.bufCap < bs.length ∨ x.txq.length = x.cfg.queueDepth then x.withResult (some .refused)
      else { x with txq := x.txq ++ [bs] }.withResult (some .ok)) s :=
  .ite (fun _ => .rfl) (appendsOnly_withResult s _) (.of_silent fun _ => rfl)

end

/-! ### Every operation -/

/-- An operation that goes on with a state and, from any other trace, with the same state and that trace made longer by
the same outputs. -/
def ExecAppendsOnly (m : State → Result) (s : State) : Prop :=
  ∃ (t : State) (new : List Output), m s = .next t ∧ t.trace = s.trace ++ new ∧
    ∀ u : List Output, m (s.withTrace u) = .next (t.withTrace (u ++ new))

theorem AppendsOnly.next {f : State → State} {s : State} (h : AppendsOnly f s) :
    ExecAppendsOnly (fun x => .next (f x)) s := by
  obtain ⟨new, hnew⟩ := h
  exact ⟨f s, new, rfl, AppendsOnly.trace_eq hnew, fun u => congrArg Host.Outcome.next (hnew u)⟩

theorem exec_appendsOnly (i : Instr) (s : State) : ExecAppendsOnly (exec i) s := by
  cases i with
  | enqueue bs =>
    rw [funext (exec_enqueue bs)]
    exact (appendsOnly_enqueue s bs).next
  | rxByte b => exact (appendsOnly_receive s b (parserStep s.cfg s.hexStrict s.parser b)).next
  | encode _ | decodeFrame _ | cacheRead _ | csrRead _ | reservedOp _ => exact (appendsOnly_withResult s _).next
  | cacheInvalidate id => exact ((appendsOnly_withResult _ _).comp (appendsOnly_invalidate s id)).next
  | csrWrite a v => exact ((appendsOnly_withResult _ _).comp (appendsOnly_csrPut s a v)).next
  | sessionReset => exact ((appendsOnly_withResult _ _).comp (appendsOnly_resetSession s)).next
  | reset => exact ((appendsOnly_withResult _ _).comp (appendsOnly_resetAll s)).next
  | byteColon | byteTab | byteCr | byteLf | byteHexdig _ | byteLabelOnly _ | byteOther _ =>
    exact (appendsOnly_receive s _ _).next
  | ping _ _ | appver _ _ | productId _ _ | restart _ _ | unassignedCmd _ _ _ =>
    exact (appendsOnly_dispatchNone s _ _).next
  | pingResponse _ _ => exact (appendsOnly_dispatchPing s _ _).next
  | get _ _ | set _ _ | async _ _ => exact (appendsOnly_dispatchReg s _ _).next
  | descScalarNumeric _ _ _ _ | descBitFlags _ _ _ _ | descEnum _ _ _ _ _ | descCompositeRecord _ _ _ _ _
  | descRawString _ _ _ _ => exact (appendsOnly_applyDecoded s _ _ _ _).next
  | evtTextField _ _ | evtFrame _ | evtCacheChange _ _ _ => exact (appendsOnly_emit s _).next
  | evtError e => exact (appendsOnly_raise s e).next
  | errChecksumMismatch _ | errInvalidLabelChar _ | errLabelTooLong | errUnknownRegister _ _
  | errPayloadTooShort _ _ => exact (appendsOnly_takeError s _).next

/-- Settles O7: the streams are projections of the one trace. -/
theorem outputStreamsAppendOnly : Obligations.OutputStreamsAppendOnly :=
  ⟨rfl, rfl, rfl, exec_appendsOnly⟩

end Sys2Proof.Machine
end

section
/-! SUPPORT. The two blocks of a bridge (spec 10_state.md R50, 60_exceptions.md R335). -/

namespace Sys2Proof.Machine

@[simp] theorem Bridge.charger_put_gateway (b : Bridge) (s : State) : (b.put .gateway s).charger = b.charger := rfl
@[simp] theorem Bridge.gateway_put_charger (b : Bridge) (s : State) : (b.put .charger s).gateway = b.gateway := rfl

/-- Writes to the two links commute. -/
theorem Bridge.put_comm (b : Bridge) (s t : State) :
    (b.put .charger s).put .gateway t = (b.put .gateway t).put .charger s := rfl

/-- An operation on a link is that operation on the link's own state. -/
theorem Bridge.exec_of_next {b : Bridge} {l : Link} {i : Instr} {t : State}
    (h : Machine.exec i (b.at l) = .next t) : b.exec l i = .next (b.put l t) := by
  rw [Bridge.exec, h]

/-- Settles O56: an operation reads and writes its own link's state only, so each runs the same before and after the
other. -/
theorem bridgeLinksAreIndependent : Obligations.BridgeLinksAreIndependent := by
  intro b i j
  obtain ⟨s, hs⟩ := exec_eq_next i b.charger
  obtain ⟨t, ht⟩ := exec_eq_next j b.gateway
  refine ⟨b.put .charger s, b.put .gateway t, (b.put .charger s).put .gateway t,
    Bridge.exec_of_next hs, Bridge.gateway_put_charger b s, hs,
    Bridge.exec_of_next ht, Bridge.charger_put_gateway b t, ht, Bridge.exec_of_next ht, ?_⟩
  rw [Bridge.put_comm]
  exact Bridge.exec_of_next hs

end Sys2Proof.Machine
end

section
/-! SUPPORT. The bytes of the decoded buffer as numbers (spec 20_memory.md R76): a read takes its least significant
byte at its own address and goes on one byte higher. -/

namespace Sys2Proof.Machine

@[simp] theorem memRead_zero (d : Bytes) (a : Nat) : memRead d a 0 = 0 := by rw [memRead, List.take_zero, leNat]

/-- The least significant byte of a read stands at its address, the others from the next address on. -/
theorem memRead_succ {d : Bytes} {a : Nat} (h : a < d.length) (n : Nat) :
    memRead d a (n + 1) = (d.getD a 0).toNat + 256 * memRead d (a + 1) n := by
  rw [memRead, List.drop_eq_getElem_cons h, List.take_succ_cons, leNat, List.getD_eq_getElem _ _ h, memRead]

theorem memRead_one {d : Bytes} {a : Nat} (h : a + 1 ≤ d.length) : memRead d a 1 = (d.getD a 0).toNat := by
  rw [memRead_succ h, memRead_zero, Nat.mul_zero, Nat.add_zero]

theorem memRead_two {d : Bytes} {a : Nat} (h : a + 2 ≤ d.length) :
    memRead d a 2 = (d.getD a 0).toNat + 256 * (d.getD (a + 1) 0).toNat := by
  rw [memRead_succ (by omega), memRead_one h]

theorem memRead_lt (d : Bytes) (a n : Nat) : memRead d a n < 256 ^ n :=
  lt_of_lt_of_le (leNat_lt _) (Nat.pow_le_pow_right (by decide) (List.length_take_le n (d.drop a)))

/-- A 32-bit read is two 16-bit reads, the lower half first. -/
theorem memRead_four {d : Bytes} {a : Nat} (h : a + 4 ≤ d.length) :
    memRead d a 4 = memRead d a 2 + 65536 * memRead d (a + 2) 2 := by
  rw [memRead_succ (by omega), memRead_succ (by omega), Nat.add_assoc a 1 1, memRead_two (a := a) (by omega)]
  omega

/-- Settles O43: the low 16 bits of a 32-bit read are its lower half. -/
theorem memReadIsLittleEndian : Obligations.MemReadIsLittleEndian := by
  refine fun d a => ⟨memRead_one, memRead_two, fun h => ⟨?_, ?_⟩⟩
  · rw [memRead_four h, memRead_two (a := a) (by omega), memRead_two (a := a + 2) h, Nat.add_assoc a 2 1]
    omega
  · rw [memRead_four h, Nat.add_mul_mod_self_left]
    exact Nat.mod_eq_of_lt (memRead_lt d a 2)

end Sys2Proof.Machine
end

section
/-! SUPPORT. One step of the machine, and what it reads of the operations issued (spec 20_memory.md R79, R81): the
oldest request, taken off the list, is decoded and runs; the rest of the list is neither read nor written by it. -/

namespace Sys2Proof.Machine

/-! ### The step -/

/-- A request whose bytes decode runs the instruction they spell. -/
theorem runRequest_of_decode {r : Request} {i : Instr} {rest : Bytes} (h : decode r.format r.bytes = .ok (i, rest))
    (s : State) : runRequest r s = exec i s := by
  rw [runRequest, h]

/-- A step with requests pending takes the oldest one and runs it. -/
theorem step_of_pending {s : State} {r : Request} {rs : List Request} (h : s.pending = r :: rs) :
    step s = runRequest r { s with pending := rs } := by
  rw [step, stepPending, h]

/-- Settles O4. -/
theorem stepRunsDecodedInstruction : Obligations.StepRunsDecodedInstruction := by
  intro s r rs i rest hpending hdecode
  rw [step_of_pending hpending, runRequest_of_decode hdecode]

/-! ### The list of issued operations is not read -/

/-- A state with another list of issued operations. -/
def State.withPending (s : State) (q : List Request) : State := { s with pending := q }

section
variable (s : State) (q : List Request)

@[simp] theorem State.withPending_cache : (s.withPending q).cache = s.cache := rfl
@[simp] theorem State.withPending_txq : (s.withPending q).txq = s.txq := rfl
@[simp] theorem State.withPending_bcnt : (s.withPending q).bcnt = s.bcnt := rfl
@[simp] theorem State.withPending_bthr : (s.withPending q).bthr = s.bthr := rfl
@[simp] theorem State.withPending_pending : (s.withPending q).pending = q := rfl
@[simp] theorem State.withPending_cfg : (s.withPending q).cfg = s.cfg := rfl

theorem State.withPending_self : s.withPending s.pending = s := rfl

@[simp] theorem State.emit_withPending (e : Event) : (s.withPending q).emit e = (s.emit e).withPending q := rfl

@[simp] theorem State.csrPut_withPending (a : Byte) (v : Word) :
    (s.withPending q).csrPut a v = (s.csrPut a v).withPending q := by
  unfold State.csrPut
  split
  · rfl
  · split <;> rfl

@[simp] theorem State.setRegister_withPending (id : RegId) (sc : Scale) (v : RegValue) :
    (s.withPending q).setRegister id sc v = (s.setRegister id sc v).withPending q := by
  unfold State.setRegister
  rw [State.withPending_cache]
  split <;> rfl

@[simp] theorem State.invalidate_withPending (id : RegId) :
    (s.withPending q).invalidate id = (s.invalidate id).withPending q := by
  unfold State.invalidate
  rw [State.withPending_cache]
  cases cacheFind id s.cache <;> rfl

@[simp] theorem State.textClassify_withPending (label value : Bytes) :
    (s.withPending q).textClassify label value = (s.textClassify label value).withPending q := by
  unfold State.textClassify
  rw [State.withPending_cfg]
  cases textFind label s.cfg.textMap with
  | none => rfl
  | some m =>
    dsimp only
    cases textValue m.parse value with
    | none => rfl
    | some v => exact s.setRegister_withPending q m.id m.scale v

@[simp] theorem State.drain_withPending : (s.withPending q).drain = s.drain.withPending q := by
  unfold State.drain
  rw [State.withPending_bthr, State.withPending_bcnt, State.withPending_txq]
  split
  · cases s.txq <;> rfl
  · rfl

@[simp] theorem State.burstCount_withPending (label : Bytes) :
    (s.withPending q).burstCount label = (s.burstCount label).withPending q := by
  unfold State.burstCount
  rw [State.withPending_cfg]
  split
  · exact State.drain_withPending { s with bcnt := satInc s.bcnt } q
  · rfl

@[simp] theorem State.applyDecoded_withPending (id : RegId) (sc : Scale) (d : Bytes) (r : Option RegValue) :
    (s.withPending q).applyDecoded id sc d r = (s.applyDecoded id sc d r).withPending q := by
  cases r with
  | none => rfl
  | some v => exact s.setRegister_withPending q id sc v

@[simp] theorem State.regDecode_withPending (d : Bytes) (id : RegId) (fl : Byte) :
    (s.withPending q).regDecode d id fl = (s.regDecode d id fl).withPending q := by
  unfold State.regDecode
  rw [State.withPending_cfg]
  split
  · rfl
  · cases regFind id s.cfg.regTable with
    | none => rfl
    | some x => exact s.applyDecoded_withPending q id x.body.scale d _

@[simp] theorem State.dispatchReg_withPending (d raw : Bytes) :
    (s.withPending q).dispatchReg d raw = (s.dispatchReg d raw).withPending q := by
  unfold State.dispatchReg
  split
  · rfl
  · rw [State.emit_withPending, State.regDecode_withPending]

@[simp] theorem State.dispatchPing_withPending (d raw : Bytes) :
    (s.withPending q).dispatchPing d raw = (s.dispatchPing d raw).withPending q := by
  unfold State.dispatchPing
  split <;> rfl

@[simp] theorem State.dispatch_withPending (d raw : Bytes) :
    (s.withPending q).dispatch d raw = (s.dispatch d raw).withPending q := by
  unfold State.dispatch
  cases cmdClass (frameCmd d) with
  | reg => exact s.dispatchReg_withPending q d raw
  | ping => exact s.dispatchPing_withPending q d raw
  | none => rfl

@[simp] theorem State.echoIf_withPending (c : Bool) (b : Byte) :
    (s.withPending q).echoIf c b = (s.echoIf c b).withPending q := by
  cases c <;> rfl

@[simp] theorem State.follow_withPending (ev : ParserEvent) :
    (s.withPending q).follow ev = (s.follow ev).withPending q := by
  cases ev with
  | none => rfl
  | err e => rfl
  | text label value => simp only [State.follow, State.emit_withPending, State.textClassify_withPending,
      State.burstCount_withPending]
  | hex d raw => exact s.dispatch_withPending q d raw

@[simp] theorem State.receive_withPending (b : Byte) (r : Parser × ParserEvent) :
    (s.withPending q).receive b r = (s.receive b r).withPending q := by
  have hecho := State.echoIf_withPending { s with parser := r.1, result := none } q
    (echoes s.echoEn s.parser.ps r.1.ps) b
  exact (congrArg (·.follow r.2) hecho).trans (State.follow_withPending _ q r.2)

end

/-- No operation reads or writes the list of operations issued after it: from any other list it does the same. -/
theorem exec_withPending {i : Instr} {s t : State} (h : exec i s = .next t) (q : List Request) :
    exec i (s.withPending q) = .next (t.withPending q) := by
  cases i with
  | enqueue bs =>
    rw [exec_enqueue] at h ⊢
    cases h
    rw [State.withPending_txq, State.withPending_cfg]
    split <;> rfl
  | rxByte _ | byteColon | byteTab | byteCr | byteLf | byteHexdig _ | byteLabelOnly _ | byteOther _ =>
    cases h; exact congrArg Host.Outcome.next (s.receive_withPending q _ _)
  | encode _ | decodeFrame _ | cacheRead _ | csrRead _ | reservedOp _ | sessionReset | reset => cases h; rfl
  | cacheInvalidate id =>
    cases h
    exact congrArg (fun x : State => (.next (x.withResult (some .ok)) : Result)) (s.invalidate_withPending q id)
  | csrWrite a v =>
    cases h
    exact congrArg (fun x : State => (.next (x.withResult (some .ok)) : Result)) (s.csrPut_withPending q a v)
  | ping _ _ | appver _ _ | productId _ _ | restart _ _ | unassignedCmd _ _ _ => cases h; rfl
  | pingResponse _ _ => cases h; exact congrArg Host.Outcome.next (s.dispatchPing_withPending q _ _)
  | get _ _ | set _ _ | async _ _ => cases h; exact congrArg Host.Outcome.next (s.dispatchReg_withPending q _ _)
  | descScalarNumeric _ _ _ _ | descBitFlags _ _ _ _ | descEnum _ _ _ _ _ | descCompositeRecord _ _ _ _ _
  | descRawString _ _ _ _ => cases h; exact congrArg Host.Outcome.next (s.applyDecoded_withPending q _ _ _ _)
  | evtTextField _ _ | evtFrame _ | evtCacheChange _ _ _ | evtError _ => cases h; rfl
  | errChecksumMismatch _ | errInvalidLabelChar _ | errLabelTooLong | errUnknownRegister _ _
  | errPayloadTooShort _ _ => cases h; rfl

/-- Every operation leaves the list of operations issued after it as it is. -/
theorem exec_keeps_pending {i : Instr} {s t : State} (h : exec i s = .next t) : t.pending = s.pending := by
  have hsame : exec i s = .next (t.withPending s.pending) := exec_withPending h s.pending
  have ht : t = t.withPending s.pending := by rw [h] at hsame; exact Host.Outcome.next.inj hsame
  rw [ht, State.withPending_pending]

end Sys2Proof.Machine
end

section
/-! SUPPORT. The family EncodeDecode as one statement over every instruction. -/

namespace Sys2Proof.Laws.EncodeDecode

open Sys2Proof Sys2Proof.Machine

/-- Every well-formed instruction is read back from its own bytes, whatever follows them. -/
theorem decode_encode (i : Instr) : Statement i :=
  i.casesOn rxByte encode decodeFrame enqueue cacheRead cacheInvalidate csrRead csrWrite sessionReset reset reservedOp
    byteColon byteTab byteCr byteLf byteHexdig byteLabelOnly byteOther
    ping appver productId pingResponse restart get set async unassignedCmd
    descScalarNumeric descBitFlags descEnum descCompositeRecord descRawString
    evtTextField evtFrame evtError evtCacheChange
    errChecksumMismatch errInvalidLabelChar errLabelTooLong errUnknownRegister errPayloadTooShort

end Sys2Proof.Laws.EncodeDecode
end

section
/-! SUPPORT. Running the operations the host has issued (spec 20_memory.md R81). -/

namespace Sys2Proof.Machine

/-- The request by which a well-formed instruction is issued runs that instruction. -/
theorem runRequest_requestOf {i : Instr} (h : i.WellFormed) (s : State) : runRequest (requestOf i) s = exec i s := by
  have hdecode : decode (requestOf i).format (requestOf i).bytes = .ok (i, []) := by
    simpa [requestOf] using Laws.EncodeDecode.decode_encode i h []
  exact runRequest_of_decode hdecode s

/-- What the host issues while nothing is pending is all that is pending. -/
theorem State.issue_of_idle {s : State} (h : s.pending = []) (is : List Instr) :
    s.issue is = s.withPending (is.map requestOf) := by
  rw [State.issue, h, List.nil_append, State.withPending]

/-- With nothing pending, one step runs the first operation issued and leaves the others issued to what it left. -/
theorem step_issue_cons {i : Instr} {s t : State} (is : List Instr) (hwf : i.WellFormed) (hidle : s.pending = [])
    (ht : exec i s = .next t) : step (s.issue (i :: is)) = .next (t.issue is) := by
  have hleft : t.pending = [] := (exec_keeps_pending ht).trans hidle
  rw [State.issue_of_idle hidle, State.issue_of_idle hleft]
  calc step (s.withPending ((i :: is).map requestOf))
      = runRequest (requestOf i) (s.withPending (is.map requestOf)) := step_of_pending rfl
    _ = exec i (s.withPending (is.map requestOf)) := runRequest_requestOf hwf _
    _ = .next (t.withPending (is.map requestOf)) := exec_withPending ht _

/-- A run of one step more goes on from the state the step answers. -/
theorem run_succ {M : Host.Core} {s t : M.State} (h : M.step s = .next t) (k : Nat) : M.run (k + 1) s = M.run k t := by
  simp only [Host.Core.run, h]

/-- Settles O5, by induction on the list of operations: each step runs the oldest and the others
are issued to what it left. -/
theorem issuedOperationsRunInOrder : Obligations.IssuedOperationsRunInOrder := by
  intro is
  induction is with
  | nil =>
    intro s _ hidle
    have hsame : s.issue [] = s := by rw [State.issue_of_idle hidle, List.map_nil, ← hidle, State.withPending_self]
    exact congrArg Host.Outcome.next hsame
  | cons i is ih =>
    intro s hwf hidle
    obtain ⟨t, ht⟩ := exec_eq_next i s
    have hleft : t.pending = [] := (exec_keeps_pending ht).trans hidle
    have hstep : Host.Core.run Sys2Proof.core (is.length + 1) (s.issue (i :: is)) =
        Host.Core.run Sys2Proof.core is.length (t.issue is) :=
      run_succ (step_issue_cons is (hwf i List.mem_cons_self) hidle ht) is.length
    have hrest : Host.Core.run Sys2Proof.core is.length (t.issue is) = execAll is t :=
      ih t (fun j hj => hwf j (List.mem_cons_of_mem i hj)) hleft
    exact hstep.trans (hrest.trans (execAll_cons ht).symm)

end Sys2Proof.Machine
end

section
/-! SUPPORT. RX_BYTE is the row of its byte's class (spec 30_encoding.md R106,
41_record_parser.md R172). -/

namespace Sys2Proof.Machine

/-- The three digit ranges of class HEXDIG, over all 256 bytes (30_encoding.md R106). -/
theorem ishex_eq_true_iff : ∀ b : Byte,
    ishex b = true ↔ (0x30 ≤ b ∧ b ≤ 0x39) ∨ (0x41 ≤ b ∧ b ≤ 0x46) ∨ (0x61 ≤ b ∧ b ≤ 0x66) := by decide

theorem isLabelOnly_eq_true_iff (b : Byte) :
    isLabelOnly b = true ↔ b = 0x23 ∨ (0x47 ≤ b ∧ b ≤ 0x5A) ∨ (0x67 ≤ b ∧ b ≤ 0x7A) := by
  simp [isLabelOnly, or_assoc]

theorem exec_rxByte (b : Byte) (s : State) :
    exec (.rxByte b) s = .next (s.receive b (parserStep s.cfg s.hexStrict s.parser b)) := rfl

section
variable (c : Cfg) (strict : Bool) (p : Parser)

theorem parserStep_tab : parserStep c strict p chTab = parseTab p := rfl

theorem parserStep_cr : parserStep c strict p chCr = parseEol c strict p := rfl

theorem parserStep_lf : parserStep c strict p chLf = parseEol c strict p := rfl

end

section
variable {b : Byte} (s : State)

theorem exec_rxByte_of_hexdig (h : classOf b = .hexdig) : exec (.rxByte b) s = exec (.byteHexdig b) s := by
  rw [exec_rxByte, parserStep, h]; rfl

theorem exec_rxByte_of_labelOnly (h : classOf b = .labelOnly) : exec (.rxByte b) s = exec (.byteLabelOnly b) s := by
  rw [exec_rxByte, parserStep, h]; rfl

theorem exec_rxByte_of_other (h : classOf b = .other) : exec (.rxByte b) s = exec (.byteOther b) s := by
  rw [exec_rxByte, parserStep, h]; rfl

end

/-- Settles O24: the class table is tested in the order of R106, the four single bytes first. -/
theorem rxByteIsItsClassRow : Obligations.RxByteIsItsClassRow := by
  intro b s
  simp only [← ishex_eq_true_iff, ← isLabelOnly_eq_true_iff]
  split_ifs with hcolon htab hcr hlf hhex hlabel
  · rw [hcolon]; rfl
  · rw [htab]; rfl
  · rw [hcr]; rfl
  · rw [hlf]; rfl
  · exact exec_rxByte_of_hexdig s (classOf_ishex b hhex)
  · exact exec_rxByte_of_labelOnly s (by
      rw [classOf, if_neg hcolon, if_neg htab, if_neg hcr, if_neg hlf, if_neg hhex, if_pos hlabel])
  · exact exec_rxByte_of_other s (by
      rw [classOf, if_neg hcolon, if_neg htab, if_neg hcr, if_neg hlf, if_neg hhex, if_neg hlabel])

end Sys2Proof.Machine
end

section
/-! SUPPORT. No operation writes the configuration (spec 10_state.md R45). -/

namespace Sys2Proof.Machine

@[simp] theorem State.csrPut_cfg (s : State) (a : Byte) (v : Word) : (s.csrPut a v).cfg = s.cfg := by
  unfold State.csrPut
  split
  · rfl
  · split <;> rfl

theorem exec_keeps_cfg {i : Instr} {s t : State} (h : exec i s = .next t) : t.cfg = s.cfg := by
  cases i with
  | enqueue bs =>
    rw [exec_enqueue] at h
    cases h
    split <;> rfl
  | rxByte _ | byteColon | byteTab | byteCr | byteLf | byteHexdig _ | byteLabelOnly _ | byteOther _ =>
    cases h; exact s.receive_cfg _ _
  | encode _ | decodeFrame _ | cacheRead _ | csrRead _ | reservedOp _ | sessionReset | reset => cases h; rfl
  | cacheInvalidate id => cases h; exact s.invalidate_cfg id
  | csrWrite a v => cases h; exact s.csrPut_cfg a v
  | ping _ _ | appver _ _ | productId _ _ | restart _ _ | unassignedCmd _ _ _ => cases h; rfl
  | pingResponse _ _ => cases h; exact s.dispatchPing_cfg _ _
  | get _ _ | set _ _ | async _ _ => cases h; exact s.dispatchReg_cfg _ _
  | descScalarNumeric _ _ _ _ | descBitFlags _ _ _ _ | descEnum _ _ _ _ _ | descCompositeRecord _ _ _ _ _
  | descRawString _ _ _ _ => cases h; exact s.applyDecoded_cfg _ _ _ _
  | evtTextField _ _ | evtFrame _ | evtCacheChange _ _ _ | evtError _ => cases h; rfl
  | errChecksumMismatch _ | errInvalidLabelChar _ | errLabelTooLong | errUnknownRegister _ _
  | errPayloadTooShort _ _ => cases h; rfl

/-- Settles O6. -/
theorem everyOperationCompletes : Obligations.EveryOperationCompletes := by
  intro i s
  obtain ⟨t, ht⟩ := exec_eq_next i s
  exact ⟨t, ht, exec_keeps_cfg ht, exec_keeps_pending ht⟩

end Sys2Proof.Machine
end

section
/-! SUPPORT. The decoder: words read back, words written out, and the format of what is read (spec 30_encoding.md R106,
R108, R111, R120, R121; 60_exceptions.md R320). -/

namespace Sys2Proof

open Sys2Proof.Machine

/-- Settles O1: the family of one lemma a constructor. -/
theorem decodeEncodeRoundTrip : Obligations.DecodeEncodeRoundTrip := Laws.EncodeDecode.decode_encode

/-- Settles O3: each word is read by evaluation. -/
theorem knownWordsDecode : Obligations.KnownWordsDecode :=
  ⟨rfl, rfl, rfl, rfl, rfl, rfl, rfl, rfl, rfl, rfl, rfl⟩

/-! ### What a reader can answer -/

/-- Whatever the reader answers has the property. -/
def Answers {α : Type} (P : α → Prop) (r : Read α) : Prop := ∀ a bs, r = .ok (a, bs) → P a

section
variable {α β : Type} {P : α → Prop}

theorem Answers.ok {a : α} {bs : Bytes} (h : P a) : Answers P (.ok (a, bs)) := by
  intro _ _ e
  cases e
  exact h

theorem Answers.error {e : DecodeError} : Answers P (.error e) := fun _ _ h => nomatch h

/-- A reader that goes on answers what its last part does. -/
theorem Answers.andThen {r : Read β} {f : β → Bytes → Read α} (h : ∀ b bs, Answers P (f b bs)) :
    Answers P (andThen r f) := by
  intro a bs e
  obtain ⟨b, bs', -, hf⟩ := andThen_eq_ok e
  exact h b bs' a bs hf

theorem Answers.ite {c : Prop} [Decidable c] {r r' : Read α} (h : Answers P r) (h' : Answers P r') :
    Answers P (if c then r else r') := by
  split
  · exact h
  · exact h'

end

/-! ### The format of what is read -/

/-- Every op code of R120 is a host operation, the reserved ones too. -/
theorem readHostOp_format (bs : Bytes) : Answers (·.format = .hostOp) (readHostOp bs) :=
  .andThen fun _ _ =>
    .ite (.andThen fun _ _ => .ok rfl) <|
    .ite (.andThen fun _ _ => .ok rfl) <|
    .ite (.andThen fun _ _ => .ok rfl) <|
    .ite (.andThen fun _ _ => .ok rfl) <|
    .ite (.andThen fun _ _ => .ok rfl) <|
    .ite (.andThen fun _ _ => .ok rfl) <|
    .ite (.andThen fun _ _ => .ok rfl) <|
    .ite (.andThen fun _ _ => .andThen fun _ _ => .ok rfl) <|
    .ite (.ok rfl) <| .ite (.ok rfl) <| .ite (.ok rfl) .error

theorem readByteClass_format (bs : Bytes) : Answers (·.format = .rxByteClass) (readByteClass bs) := by
  refine .andThen fun b bs => ?_
  cases classOf b <;> exact .ok rfl

theorem frameInstr_format (cmd : Byte) (rest raw : Bytes) : (frameInstr cmd rest raw).format = .vehexFrame := by
  unfold frameInstr
  split_ifs <;> rfl

theorem readFrame_format (bs : Bytes) : Answers (·.format = .vehexFrame) (readFrame bs) :=
  .andThen fun cmd _ =>
    .ite (.andThen fun rest _ => .andThen fun raw _ => .ok (frameInstr_format cmd rest raw)) .error

theorem descriptorInstr_format (x : Descriptor) (d : Bytes) : (descriptorInstr x d).format = .descriptorKind := by
  unfold descriptorInstr
  cases x.body.kind <;> rfl

theorem readDescriptor_format (bs : Bytes) : Answers (·.format = .descriptorKind) (readDescriptor bs) := by
  refine .andThen fun kind _ => .andThen fun id _ => .andThen fun w _ => .andThen fun sc _ => .andThen fun m _ =>
    .andThen fun fs _ => .andThen fun d _ => ?_
  cases checkDescriptor ⟨id, kind, w, sc, m, fs⟩ with
  | ok x => exact .ok (descriptorInstr_format x d)
  | error p => exact .error

theorem readEvent_format (bs : Bytes) : Answers (·.format = .eventTag) (readEvent bs) :=
  .andThen fun _ _ =>
    .ite (.andThen fun _ _ => .andThen fun _ _ => .ok rfl) <|
    .ite (.andThen fun _ _ => .ok rfl) <|
    .ite (.andThen fun _ _ => .ok rfl) <|
    .ite (.andThen fun _ _ => .andThen fun _ _ => .andThen fun _ _ => .ok rfl) <|
    .ite .error .error

theorem errorInstr_format (e : BlockError) : (errorInstr e).format = .errorCode := by cases e <;> rfl

theorem readInstr_format (f : Format) (bs : Bytes) : Answers (·.format = f) (readInstr f bs) := by
  cases f with
  | hostOp => exact readHostOp_format bs
  | rxByteClass => exact readByteClass_format bs
  | vehexFrame => exact readFrame_format bs
  | descriptorKind => exact readDescriptor_format bs
  | eventTag => exact readEvent_format bs
  | errorCode => exact .andThen fun e _ => .ok (errorInstr_format e)

/-- The check of the operands answers the instruction that was read, or nothing. -/
theorem readInstr_of_decode_eq_ok {f : Format} {bs rest : Bytes} {i : Instr} (h : decode f bs = .ok (i, rest)) :
    readInstr f bs = .ok (i, rest) := by
  obtain ⟨j, bs', hread, hchecked⟩ := andThen_eq_ok h
  cases hj : j.problem with
  | some p => rw [hj] at hchecked; cases hchecked
  | none => rw [hj] at hchecked; cases hchecked; exact hread

/-- Settles O2. -/
theorem decodedInstructionIsWellFormed : Obligations.DecodedInstructionIsWellFormed :=
  fun f bs rest i h =>
    ⟨wellFormed_of_decode_eq_ok h, readInstr_format f bs i rest (readInstr_of_decode_eq_ok h)⟩

end Sys2Proof
end

section
/-! SUPPORT. An encoded frame on the wire: its digits spell its string again, and the row of a command is its dispatch
(spec 30_encoding.md R108, R109, 40_frame_codec.md R141-R144). -/

namespace Sys2Proof.Machine

/-! ### The codec round trip -/

/-- A string followed by its checksum byte is valid (40_frame_codec.md R142, R143). -/
theorem sumValid_concat_checksum (s : Bytes) : sumValid (s ++ [checksum s]) = true := by
  simp only [sumValid, sumBytes_append, sumBytes_cons, sumBytes_nil, checksum_toNat, decide_eq_true_eq]
  omega

/-- A command of one digit is its low nibble (30_encoding.md R108). -/
theorem setWidth_extractLsb'_of_le : ∀ cmd : Byte, cmd ≤ 0x0F → (cmd.extractLsb' 0 4).setWidth 8 = cmd := by decide

/-- The digits of an encoded frame spell the string and its checksum byte. -/
theorem digitBytes_frameDigits {cmd : Byte} {rest : Bytes} (hcmd : cmd ≤ 0x0F) (hrest : rest.length ≤ 511) :
    digitBytes (frameDigits (encodeFrame (cmd :: rest))) = cmd :: rest ++ [checksum (cmd :: rest)] := by
  rw [frameDigits_encode hrest, digitBytes, pairBytes_hex2, nib_hexu, setWidth_extractLsb'_of_le cmd hcmd,
    List.cons_append]

/-- The digits of an encoded frame decode to the string, in both modes and under both policies (40_frame_codec.md R148). -/
theorem hexDecode_frameDigits (policy : OddDigitPolicy) (strict : Bool) {cmd : Byte} {rest : Bytes} (hcmd : cmd ≤ 0x0F)
    (hrest : rest.length ≤ 511) :
    hexDecode policy strict (frameDigits (encodeFrame (cmd :: rest))) = some (cmd :: rest) := by
  have hlen := length_frameDigits (c := cmd) hrest
  refine hexDecode_eq_some_iff.mpr
    ⟨_, oddDigits_eq_some_iff.mpr (.inl ⟨by omega, rfl⟩), by omega, fun _ => frameDigits_ishex hrest, ?_, ?_⟩
  · rw [digitBytes_frameDigits hcmd hrest]
    exact sumValid_concat_checksum (cmd :: rest)
  · rw [digitBytes_frameDigits hcmd hrest, List.dropLast_concat]

/-! ### The row of a command -/

theorem State.dispatch_of_none (s : State) {cmd : Byte} (h : cmdClass cmd = .none) (rest raw : Bytes) :
    s.dispatch (cmd :: rest) raw = s.dispatchNone (cmd :: rest) raw := by
  rw [State.dispatch, show frameCmd (cmd :: rest) = cmd from rfl, h]

theorem setWidth_setWidth_of_le : ∀ cmd : Byte, cmd ≤ 0x0F → (cmd.setWidth 4).setWidth 8 = cmd := by decide

/-- The row of a command of one digit is the dispatch of a good frame with it (42_frame_dispatch.md R210). -/
theorem exec_frameInstr {cmd : Byte} (hcmd : cmd ≤ 0x0F) (rest raw : Bytes) (s : State) :
    exec (frameInstr cmd rest raw) s = .next (s.dispatch (cmd :: rest) raw) := by
  unfold frameInstr
  split_ifs with hping happver hproduct hresponse hrestart hget hset hasync
  · rw [hping]; rfl
  · rw [happver]; rfl
  · rw [hproduct]; rfl
  · rw [hresponse]; rfl
  · rw [hrestart]; rfl
  · rw [hget]; rfl
  · rw [hset]; rfl
  · rw [hasync]; rfl
  · have hclass : cmdClass cmd = .none := by
      rw [cmdClass, if_neg (not_or.mpr ⟨hget, not_or.mpr ⟨hset, hasync⟩⟩), if_neg hresponse]
    show Host.Outcome.next (s.dispatchNone ((cmd.setWidth 4).setWidth 8 :: rest) raw) = _
    rw [setWidth_setWidth_of_le cmd hcmd, s.dispatch_of_none hclass]

end Sys2Proof.Machine
end

section
/-! SUPPORT. A run of received bytes (spec 20_memory.md R81): what each byte does, after those before it, says what the run
does. -/

namespace Sys2Proof.Machine

/-- If each byte leads from the state after the bytes before it to the state after it too, the run leads to the state after
all of them. -/
theorem execAll_rx_of_step {f : Bytes → State} {bs : Bytes}
    (h : ∀ xs b ys, bs = xs ++ b :: ys → exec (.rxByte b) (f xs) = .next (f (xs ++ [b]))) :
    execAll (rx bs) (f []) = .next (f bs) := by
  induction bs using List.reverseRecOn with
  | nil => rfl
  | append_singleton bs b ih =>
    have hbefore : execAll (rx bs) (f []) = .next (f bs) :=
      ih fun xs x ys e => h xs x (ys ++ [b]) (by rw [e, List.append_assoc, List.cons_append])
    rw [rx_append, execAll_append hbefore, rx_cons, rx_nil, execAll_single]
    exact h bs b [] rfl

/-- RX_BYTE does not read the result of the operation before it. -/
theorem execAll_rx_withResult {bs : Bytes} (hbs : bs ≠ []) (s : State) (r : Option HostResult) :
    execAll (rx bs) (s.withResult r) = execAll (rx bs) s := by
  obtain ⟨b, bs, rfl⟩ := List.exists_cons_of_ne_nil hbs
  have hfirst : exec (.rxByte b) (s.withResult r) = exec (.rxByte b) s := rfl
  rw [rx_cons, execAll, execAll, hfirst]

/-- A byte of a list, with the number of bytes before it. -/
theorem mem_and_length_of_split {bs xs ys : Bytes} {b : Byte} (h : bs = xs ++ b :: ys) :
    b ∈ bs ∧ xs.length < bs.length := by
  rw [h]
  exact ⟨List.mem_append_cons_self, by rw [List.length_append, List.length_cons]; omega⟩

end Sys2Proof.Machine
end

section
/-! SUPPORT. Bytes received in hex mode, which is without echo: `:` begins a frame, digits are kept while there is room,
LF ends it (spec 41_record_parser.md R173, R180, R184, R187). -/

namespace Sys2Proof.Machine

/-- The state after a byte that leaves the parser in `p` and has no echo and no event; a received byte has no result
(45_tx_and_control.md R292). -/
def State.parsed (s : State) (p : Parser) : State := { s with parser := p, result := none }

@[simp] theorem State.parsed_parser (s : State) (p : Parser) : (s.parsed p).parser = p := rfl
@[simp] theorem State.parsed_parsed (s : State) (p q : Parser) : (s.parsed p).parsed q = s.parsed q := rfl

/-- A byte with hex mode before or after it has no echo (41_record_parser.md R187). -/
theorem State.receive_hexMode {s : State} {r : Parser × ParserEvent}
    (h : s.parser.ps = .readingHexDigits ∨ r.1.ps = .readingHexDigits) (b : Byte) :
    s.receive b r = (s.parsed r.1).follow r.2 := by
  have hecho : echoes s.echoEn s.parser.ps r.1.ps = false := by
    rcases h with h | h <;> simp [echoes, h]
  rw [State.receive, hecho]
  rfl

theorem exec_rxByte_colon (s : State) :
    exec (.rxByte chColon) s = .next (s.parsed ⟨.readingHexDigits, [], [], []⟩) :=
  congrArg Host.Outcome.next (State.receive_hexMode (.inr rfl) chColon)

/-- A hex digit is kept while there is room (41_record_parser.md R184). -/
theorem exec_rxByte_digit {s : State} {b : Byte} {l v h : Bytes} (hs : s.parser = ⟨.readingHexDigits, l, v, h⟩)
    (hb : ishex b = true) (hroom : h.length < s.cfg.hexCap) :
    exec (.rxByte b) s = .next (s.parsed ⟨.readingHexDigits, l, v, h ++ [b]⟩) := by
  have hstep : parserStep s.cfg s.hexStrict s.parser b = (⟨.readingHexDigits, l, v, h ++ [b]⟩, .none) := by
    rw [parserStep, classOf_ishex b hb, hs]
    simp only [parseLabelClass, hexByte, hb, hroom, and_self, if_true]
  rw [exec_rxByte, hstep, State.receive_hexMode (.inr rfl)]
  rfl

/-- A run of hex digits that HBUF has room for is kept whole, in order. -/
theorem execAll_rx_digits {s : State} {ds l v : Bytes} (hds : ∀ b ∈ ds, ishex b = true)
    (hroom : ds.length ≤ s.cfg.hexCap) :
    execAll (rx ds) (s.parsed ⟨.readingHexDigits, l, v, []⟩) = .next (s.parsed ⟨.readingHexDigits, l, v, ds⟩) := by
  refine execAll_rx_of_step (f := fun xs => s.parsed ⟨.readingHexDigits, l, v, xs⟩) fun xs b ys hsplit => ?_
  obtain ⟨hb, hlt⟩ := mem_and_length_of_split hsplit
  exact exec_rxByte_digit (State.parsed_parser s _) (hds b hb) (lt_of_lt_of_le hlt hroom)

/-- LF after digits that decode dispatches the frame (41_record_parser.md R180). -/
theorem exec_rxByte_lf_of_hexDecode {s : State} {l v h d : Bytes} (hs : s.parser = ⟨.readingHexDigits, l, v, h⟩)
    (hd : hexDecode s.cfg.oddDigitPolicy s.hexStrict h = some d) :
    exec (.rxByte chLf) s = .next ((s.parsed ⟨.idle, l, v, []⟩).dispatch d h) := by
  have hne : h ≠ [] := by
    rintro rfl
    exact absurd (shape_of_hexDecode_eq_some hd).1 (by decide)
  have hstep : parserStep s.cfg s.hexStrict s.parser chLf = (⟨.idle, l, v, []⟩, .hex d h) := by
    rw [parserStep_lf, hs]
    simp only [parseEol, hne, if_false, completeFrame, hd]
  rw [exec_rxByte, hstep, State.receive_hexMode (.inl (by rw [hs]))]
  rfl

/-- Settles O37: `:` discards what the parser held, the digits fill HBUF, and LF hands the decoded string to the dispatch. -/
theorem encodedFrameIsReceived : Obligations.EncodedFrameIsReceived := by
  intro cmd rest s hcmd hrest hcap
  have hdigits : execAll (rx (frameDigits (encodeFrame (cmd :: rest)))) (s.parsed ⟨.readingHexDigits, [], [], []⟩) =
      .next (s.parsed ⟨.readingHexDigits, [], [], frameDigits (encodeFrame (cmd :: rest))⟩) :=
    execAll_rx_digits (frameDigits_ishex hrest) (by rw [length_frameDigits hrest]; exact hcap)
  calc execAll (rxHex (cmd :: rest)) s
      = execAll (rx (chColon :: (frameDigits (encodeFrame (cmd :: rest)) ++ [chLf]))) s :=
        congrArg (fun frame => execAll (rx frame) s) (encodeFrame_digits hrest)
    _ = execAll (rx [chLf]) (s.parsed ⟨.readingHexDigits, [], [], frameDigits (encodeFrame (cmd :: rest))⟩) := by
        rw [rx_cons, execAll_cons (exec_rxByte_colon s), rx_append, execAll_append hdigits]
    _ = .next ((s.parsed ⟨.idle, [], [], []⟩).dispatch (cmd :: rest) (frameDigits (encodeFrame (cmd :: rest)))) := by
        rw [rx_cons, rx_nil, execAll_single, exec_rxByte_lf_of_hexDecode rfl (hexDecode_frameDigits _ _ hcmd hrest),
          State.parsed_parsed]
    _ = exec (frameInstr cmd rest (frameDigits (encodeFrame (cmd :: rest)))) (s.parsed ⟨.idle, [], [], []⟩) :=
        (exec_frameInstr hcmd rest _ _).symm

end Sys2Proof.Machine
end

section
/-! SUPPORT. Bytes received outside hex mode, each with its echo where ECHO_EN is set: the label, the tab, the value and
the end of a text record (spec 41_record_parser.md R174, R178, R183, R185-R187). -/

namespace Sys2Proof.Machine

/-- The state after bytes outside hex mode that leave the parser in `p` and have no event: they are echoed where ECHO_EN
is set. -/
def State.echoed (s : State) (p : Parser) (bs : Bytes) : State :=
  { s with parser := p, result := none, trace := s.trace ++ s.echoOutputs bs }

section
variable (s : State) (p q : Parser) (as bs : Bytes)

@[simp] theorem State.echoed_parser : (s.echoed p bs).parser = p := rfl

theorem State.echoOutputs_append : s.echoOutputs (as ++ bs) = s.echoOutputs as ++ s.echoOutputs bs := by
  unfold State.echoOutputs
  split
  · exact List.map_append
  · rfl

/-- With no byte received yet, only the result is gone. -/
theorem State.echoed_nil : s.echoed s.parser [] = s.withResult none := by
  have htrace : s.trace ++ s.echoOutputs [] = s.trace := by simp [State.echoOutputs]
  exact congrArg (fun u => ({ s with result := none, trace := u } : State)) htrace

/-- Bytes echoed one run after another are echoed in order. -/
@[simp] theorem State.echoed_echoed : (s.echoed p as).echoed q bs = s.echoed q (as ++ bs) := by
  have htrace : s.trace ++ s.echoOutputs as ++ s.echoOutputs bs = s.trace ++ s.echoOutputs (as ++ bs) := by
    rw [State.echoOutputs_append, List.append_assoc]
  exact congrArg (fun u => ({ s with parser := q, result := none, trace := u } : State)) htrace

end

/-- A byte with hex mode neither before nor after it is echoed where ECHO_EN is set (41_record_parser.md R187). -/
theorem State.receive_textMode {s : State} {r : Parser × ParserEvent} (hpre : s.parser.ps ≠ .readingHexDigits)
    (hpost : r.1.ps ≠ .readingHexDigits) (b : Byte) : s.receive b r = (s.echoed r.1 [b]).follow r.2 := by
  have hecho : echoes s.echoEn s.parser.ps r.1.ps = s.echoEn := by simp [echoes, hpre, hpost]
  rw [State.receive, hecho]
  refine congrArg (State.follow · r.2) ?_
  cases hen : s.echoEn <;> simp [State.echoIf, State.echoByte, State.out, State.echoed, State.echoOutputs, hen]

/-- A step of the parser outside hex mode, as a step of the machine. -/
theorem exec_rxByte_textMode {s : State} {b : Byte} {p : Parser} {ev : ParserEvent}
    (hstep : parserStep s.cfg s.hexStrict s.parser b = (p, ev)) (hpre : s.parser.ps ≠ .readingHexDigits)
    (hpost : p.ps ≠ .readingHexDigits) : exec (.rxByte b) s = .next ((s.echoed p [b]).follow ev) := by
  rw [exec_rxByte, hstep, State.receive_textMode hpre hpost]

/-! ### One byte of a record -/

section
variable {s : State} {l v h : Bytes} {b : Byte}

/-- A label byte is kept while the label is shorter than 9 bytes (41_record_parser.md R183). -/
theorem exec_rxByte_label (hs : s.parser = ⟨.readingLabel, l, v, h⟩) (hb : islabel b = true ∧ b ≠ chColon)
    (hroom : l.length < Config.labelMax) :
    exec (.rxByte b) s = .next (s.echoed ⟨.readingLabel, l ++ [b], v, h⟩ [b]) := by
  have hlabel : parseLabelClass s.cfg b s.parser = (⟨.readingLabel, l ++ [b], v, h⟩, .none) := by
    rw [hs]
    simp only [parseLabelClass, labelByte, hroom, if_true]
  have hstep : parserStep s.cfg s.hexStrict s.parser b = (⟨.readingLabel, l ++ [b], v, h⟩, .none) := by
    rcases classOf_label b hb.1 hb.2 with hc | hc <;> rw [parserStep, hc, ← hlabel]
  exact exec_rxByte_textMode hstep (by rw [hs]; nofun) nofun

/-- A tab ends the label (41_record_parser.md R174). -/
theorem exec_rxByte_tab (hs : s.parser = ⟨.readingLabel, l, v, h⟩) :
    exec (.rxByte chTab) s = .next (s.echoed ⟨.sawTab, l, v, h⟩ [chTab]) := by
  have hstep : parserStep s.cfg s.hexStrict s.parser chTab = (⟨.sawTab, l, v, h⟩, .none) := by
    rw [parserStep_tab, hs]; rfl
  exact exec_rxByte_textMode hstep (by rw [hs]; nofun) nofun

/-- The two handlers of the classes a value byte can have agree where a value is read (41_record_parser.md R185, R186). -/
theorem parserStep_of_valueByte {c : Cfg} {strict : Bool} {p : Parser} {r : Parser × ParserEvent}
    (hb : valueByteOk b = true) (hlabel : parseLabelClass c b p = r) (hother : parseOtherClass c b p = r) :
    parserStep c strict p b = r := by
  rcases classOf_value b hb with hc | hc | hc <;> rw [parserStep, hc]
  · exact hlabel
  · exact hlabel
  · exact hother

/-- The first byte of a value (41_record_parser.md R185). -/
theorem exec_rxByte_firstValue (hs : s.parser = ⟨.sawTab, l, v, h⟩) (hb : valueByteOk b = true) :
    exec (.rxByte b) s = .next (s.echoed ⟨.readingValue, l, [b], h⟩ [b]) := by
  have hstep : parserStep s.cfg s.hexStrict s.parser b = (⟨.readingValue, l, [b], h⟩, .none) :=
    parserStep_of_valueByte hb (by rw [hs]; rfl) (by rw [hs]; rfl)
  exact exec_rxByte_textMode hstep (by rw [hs]; nofun) nofun

/-- A later byte of a value is kept while the value is shorter than 33 bytes (41_record_parser.md R186). -/
theorem exec_rxByte_value (hs : s.parser = ⟨.readingValue, l, v, h⟩) (hb : valueByteOk b = true)
    (hroom : v.length < Config.valueMax) :
    exec (.rxByte b) s = .next (s.echoed ⟨.readingValue, l, v ++ [b], h⟩ [b]) := by
  have hvalue : valueByte b s.parser = (⟨.readingValue, l, v ++ [b], h⟩, .none) := by
    rw [hs]
    simp only [valueByte, hroom, if_true]
  have hstep : parserStep s.cfg s.hexStrict s.parser b = (⟨.readingValue, l, v ++ [b], h⟩, .none) :=
    parserStep_of_valueByte hb (by rw [← hvalue, hs]; rfl) (by rw [← hvalue, hs]; rfl)
  exact exec_rxByte_textMode hstep (by rw [hs]; nofun) nofun

/-- CR or LF after a value with a label completes the record (41_record_parser.md R177, R178). -/
theorem exec_rxByte_endOfRecord (hs : s.parser = ⟨.readingValue, l, v, h⟩) (hl : l ≠ []) (hb : b = chCr ∨ b = chLf) :
    exec (.rxByte b) s = .next ((s.echoed ⟨.readingLabel, [], [], h⟩ [b]).follow (.text l v)) := by
  have heol : parseEol s.cfg s.hexStrict s.parser = (⟨.readingLabel, [], [], h⟩, .text l v) := by
    rw [hs]
    simp only [parseEol, hl, if_false, completeRecord]
  have hstep : parserStep s.cfg s.hexStrict s.parser b = (⟨.readingLabel, [], [], h⟩, .text l v) := by
    rcases hb with rfl | rfl
    · rw [parserStep_cr, heol]
    · rw [parserStep_lf, heol]
  exact exec_rxByte_textMode hstep (by rw [hs]; nofun) nofun

end

/-! ### A record -/

/-- A label that LBUF has room for is kept whole, in order, and a tab ends it. -/
theorem execAll_rx_labelAndTab {s : State} {label v h : Bytes} (hs : s.parser = ⟨.readingLabel, [], v, h⟩)
    (hlabel : ∀ b ∈ label, islabel b = true ∧ b ≠ chColon) (hroom : label.length ≤ Config.labelMax) :
    execAll (rx (label ++ [chTab])) s = .next (s.echoed ⟨.sawTab, label, v, h⟩ (label ++ [chTab])) := by
  have hrun : execAll (rx label) (s.echoed ⟨.readingLabel, [], v, h⟩ []) =
      .next (s.echoed ⟨.readingLabel, label, v, h⟩ label) := by
    refine execAll_rx_of_step (f := fun xs => s.echoed ⟨.readingLabel, xs, v, h⟩ xs) fun xs b ys hsplit => ?_
    obtain ⟨hb, hlt⟩ := mem_and_length_of_split hsplit
    have hbyte := exec_rxByte_label (State.echoed_parser s ⟨.readingLabel, xs, v, h⟩ xs) (hlabel b hb)
      (lt_of_lt_of_le hlt hroom)
    rwa [State.echoed_echoed] at hbyte
  have htab := exec_rxByte_tab (State.echoed_parser s ⟨.readingLabel, label, v, h⟩ label)
  rw [State.echoed_echoed] at htab
  calc execAll (rx (label ++ [chTab])) s
      = execAll (rx (label ++ [chTab])) (s.withResult none) := (execAll_rx_withResult (by simp) s none).symm
    _ = execAll (rx (label ++ [chTab])) (s.echoed ⟨.readingLabel, [], v, h⟩ []) := by rw [← hs, State.echoed_nil]
    _ = .next (s.echoed ⟨.sawTab, label, v, h⟩ (label ++ [chTab])) := by
        rw [rx_append, execAll_append hrun, rx_cons, rx_nil, execAll_single, htab]

/-- A value that VBUF has room for is kept whole, in order. -/
theorem execAll_rx_value {s : State} {l value seen h : Bytes} (hvalue : ∀ b ∈ value, valueByteOk b = true)
    (hne : value ≠ []) (hroom : value.length ≤ Config.valueMax) :
    execAll (rx value) (s.echoed ⟨.sawTab, l, [], h⟩ seen) =
      .next (s.echoed ⟨.readingValue, l, value, h⟩ (seen ++ value)) := by
  obtain ⟨b, bs, rfl⟩ := List.exists_cons_of_ne_nil hne
  obtain ⟨hb, hbs⟩ := List.forall_mem_cons.mp hvalue
  have hfirst := exec_rxByte_firstValue (State.echoed_parser s ⟨.sawTab, l, [], h⟩ seen) hb
  rw [State.echoed_echoed] at hfirst
  rw [rx_cons, execAll_cons hfirst]
  refine execAll_rx_of_step (f := fun xs => s.echoed ⟨.readingValue, l, b :: xs, h⟩ (seen ++ b :: xs))
    fun xs x ys hsplit => ?_
  obtain ⟨hx, hlt⟩ := mem_and_length_of_split hsplit
  have hbyte := exec_rxByte_value (State.echoed_parser s ⟨.readingValue, l, b :: xs, h⟩ (seen ++ b :: xs)) (hbs x hx)
    (lt_of_lt_of_le (Nat.succ_lt_succ hlt) hroom)
  rwa [State.echoed_echoed, List.append_assoc] at hbyte

/-- Settles O38: the label and the tab, the value, then the CR or LF that completes the record. -/
theorem textRecordIsReceived : Obligations.TextRecordIsReceived := by
  intro label value stop s hs hlabel1 hlabel9 hlabel hvalue1 hvalue33 hvalue hstop
  have hlne : label ≠ [] := List.length_pos_iff.mp hlabel1
  have hvok : ∀ b ∈ value, valueByteOk b = true := fun b hb => by simpa [valueByteOk, and_assoc] using hvalue b hb
  have hsplit : label ++ chTab :: (value ++ [stop]) = (label ++ [chTab]) ++ (value ++ [stop]) := by simp
  have hend := exec_rxByte_endOfRecord
    (State.echoed_parser s ⟨.readingValue, label, value, []⟩ (label ++ [chTab] ++ value)) hlne hstop
  rw [hsplit, rx_append, execAll_append (execAll_rx_labelAndTab hs hlabel hlabel9), rx_append,
    execAll_append (execAll_rx_value hvok (List.length_pos_iff.mp hvalue1) hvalue33), rx_cons, rx_nil,
    execAll_single, hend, State.echoed_echoed, List.append_assoc, ← hs]
  rfl

end Sys2Proof.Machine
end

section
/-! SUPPORT. Building (spec 30_encoding.md R111, R112, 70_reset_and_hazards.md R353): for each check, exactly what it lets
through and what it answers. -/

namespace Sys2Proof.Machine

/-! ### Widths -/

theorem widthOf_eq_some_iff {n : Nat} {w : Width} : widthOf n = some w ↔ w.bytes = n := by
  constructor
  · exact widthOf_eq_some
  · rintro rfl
    exact widthOf_bytes w

theorem exists_width_bytes_iff {n : Nat} : (∃ w : Width, w.bytes = n) ↔ n ∈ [1, 2, 4] := by
  constructor
  · rintro ⟨w, rfl⟩
    cases w <;> decide
  · simp only [List.mem_cons, List.not_mem_nil, or_false]
    rintro (rfl | rfl | rfl)
    · exact ⟨.u8, rfl⟩
    · exact ⟨.u16, rfl⟩
    · exact ⟨.u32, rfl⟩

theorem exists_map_width_bytes_iff {ns : List Nat} :
    (∃ ws : List Width, ws.map Width.bytes = ns) ↔ ∀ n ∈ ns, n ∈ [1, 2, 4] := by
  simp only [← exists_width_bytes_iff]
  exact Set.ext_iff.mp (Set.range_list_map Width.bytes) ns

/-! ### Descriptors -/

/-- A decode strategy is the one of a kind code, with the `map` or the field widths handed over. -/
def KindForm (kind : Nat) (map : Option (List EnumEntry)) (fields : Option (List Nat)) : DescKind → Prop
  | .scalarNumeric => kind = 0
  | .bitFlags => kind = 1
  | .enum m => kind = 2 ∧ m = map.getD []
  | .compositeRecord ws => kind = 3 ∧ ws.map Width.bytes = fields.getD []
  | .rawString => kind = 4

theorem typedForm_iff {x : RawDescriptor} {y : Descriptor} :
    TypedForm x y ↔ y.id = x.id ∧ y.body.scale = x.scale ∧ y.body.width.bytes = x.width ∧
      KindForm x.kind x.map x.fields y.body.kind := by
  obtain ⟨id, w, sc, k⟩ := y
  cases k <;> exact Iff.rfl

/-- Exactly what the check of a kind lets through: `map` on an Enum only, `fields` on a CompositeRecord only, and a kind
code that names a strategy (30_encoding.md R111). -/
theorem checkKind_eq_ok_iff {kind : Nat} {map : Option (List EnumEntry)} {fields : Option (List Nat)} {k : DescKind} :
    checkKind kind map fields = .ok k ↔
      (kind ≠ 2 → map = none) ∧ (kind ≠ 3 → fields = none) ∧ KindForm kind map fields k := by
  constructor
  · intro h
    unfold checkKind at h
    split_ifs at h with h4 hm hf h0 h1 h2 h3
    all_goals
      have hmap : kind ≠ 2 → map = none := fun hk => not_not.mp fun hne => hm ⟨hk, hne⟩
      have hfields : kind ≠ 3 → fields = none := fun hk => not_not.mp fun hne => hf ⟨hk, hne⟩
      refine ⟨hmap, hfields, ?_⟩
    · cases h; exact h0
    · cases h; exact h1
    · cases h; exact ⟨h2, rfl⟩
    · cases hws : widthsOf (fields.getD []) with
      | none => rw [hws] at h; cases h
      | some ws => rw [hws] at h; cases h; exact ⟨h3, widthsOf_eq_some hws⟩
    · cases h; exact show kind = 4 by omega
  · rintro ⟨hmap, hfields, hk⟩
    cases k with
    | scalarNumeric | bitFlags | rawString =>
      obtain rfl := hk
      rw [hmap (by decide), hfields (by decide)]
      rfl
    | enum m =>
      obtain ⟨rfl, rfl⟩ := hk
      rw [hfields (by decide)]
      rfl
    | compositeRecord ws =>
      obtain ⟨rfl, hws⟩ := hk
      rw [hmap (by decide), checkKind, ← hws, widthsOf_bytes]
      rfl

/-- Exactly what the check of a descriptor lets through, and what it answers (30_encoding.md R111). -/
theorem checkDescriptor_eq_ok_iff {x : RawDescriptor} {y : Descriptor} :
    checkDescriptor x = .ok y ↔ (x.kind ≠ 2 → x.map = none) ∧ (x.kind ≠ 3 → x.fields = none) ∧ TypedForm x y := by
  have hparts : checkDescriptor x = .ok y ↔ checkKind x.kind x.map x.fields = .ok y.body.kind ∧
      widthOf x.width = some y.body.width ∧ x.id = y.id ∧ x.scale = y.body.scale := by
    obtain ⟨id, w, sc, k⟩ := y
    unfold checkDescriptor
    cases checkKind x.kind x.map x.fields with
    | error e => simp
    | ok k' =>
      cases widthOf x.width with
      | none => simp
      | some w' => simp; tauto
  rw [hparts, checkKind_eq_ok_iff, widthOf_eq_some_iff, typedForm_iff]
  tauto

/-- Which kind codes and fields name a strategy. -/
theorem exists_kindForm_iff {kind : Nat} {map : Option (List EnumEntry)} {fields : Option (List Nat)}
    (hfields : kind ≠ 3 → fields = none) :
    (∃ k, KindForm kind map fields k) ↔ kind ≤ 4 ∧ ∀ ws ∈ fields, ∀ w ∈ ws, w ∈ [1, 2, 4] := by
  have hwidths : (∀ ws ∈ fields, ∀ w ∈ ws, w ∈ [1, 2, 4]) ↔ ∃ ws : List Width, ws.map Width.bytes = fields.getD [] := by
    rw [exists_map_width_bytes_iff]
    cases fields <;> simp
  rw [hwidths]
  constructor
  · rintro ⟨k, hk⟩
    cases k with
    | scalarNumeric | bitFlags | rawString =>
      obtain rfl := hk
      exact ⟨by decide, [], by rw [hfields (by decide)]; rfl⟩
    | enum m =>
      obtain ⟨rfl, -⟩ := hk
      exact ⟨by decide, [], by rw [hfields (by decide)]; rfl⟩
    | compositeRecord ws =>
      obtain ⟨rfl, hws⟩ := hk
      exact ⟨by decide, ws, hws⟩
  · rintro ⟨h4, ws, hws⟩
    interval_cases kind
    · exact ⟨.scalarNumeric, rfl⟩
    · exact ⟨.bitFlags, rfl⟩
    · exact ⟨.enum (map.getD []), rfl, rfl⟩
    · exact ⟨.compositeRecord ws, rfl, hws⟩
    · exact ⟨.rawString, rfl⟩

/-- Which raw descriptors have a typed form: R111 item by item. -/
theorem exists_checkDescriptor_eq_ok_iff {x : RawDescriptor} :
    (∃ y, checkDescriptor x = .ok y) ↔
      x.kind ≤ 4 ∧ x.width ∈ [1, 2, 4] ∧ (x.kind ≠ 2 → x.map = none) ∧ (x.kind ≠ 3 → x.fields = none) ∧
        ∀ ws ∈ x.fields, ∀ w ∈ ws, w ∈ [1, 2, 4] := by
  simp only [checkDescriptor_eq_ok_iff, typedForm_iff]
  constructor
  · rintro ⟨y, hmap, hfields, -, -, hw, hk⟩
    obtain ⟨h4, hwidths⟩ := (exists_kindForm_iff hfields).mp ⟨_, hk⟩
    exact ⟨h4, exists_width_bytes_iff.mp ⟨_, hw⟩, hmap, hfields, hwidths⟩
  · rintro ⟨h4, hwidth, hmap, hfields, hwidths⟩
    obtain ⟨w, hw⟩ := exists_width_bytes_iff.mpr hwidth
    obtain ⟨k, hk⟩ := (exists_kindForm_iff (map := x.map) hfields).mpr ⟨h4, hwidths⟩
    exact ⟨⟨x.id, w, x.scale, k⟩, hmap, hfields, rfl, rfl, hw, hk⟩

/-! ### The table -/

/-- The typed table holds what each descriptor's check answers, in order. -/
theorem checkTable_eq_ok_iff {rs : List RawDescriptor} {t : List Descriptor} :
    checkTable rs = .ok t ↔ List.Forall₂ (fun x y => checkDescriptor x = .ok y) rs t := by
  induction rs generalizing t with
  | nil => simp [checkTable, eq_comm]
  | cons r rs ih =>
    rw [checkTable, List.forall₂_cons_left_iff]
    cases checkDescriptor r with
    | error p => simp
    | ok x =>
      simp only [← ih]
      cases checkTable rs <;> simp [eq_comm]

theorem exists_checkTable_eq_ok_iff {rs : List RawDescriptor} :
    (∃ t, checkTable rs = .ok t) ↔ ∀ x ∈ rs, ∃ y, checkDescriptor x = .ok y := by
  simp only [checkTable_eq_ok_iff]
  induction rs with
  | nil => simp
  | cons r rs ih =>
    rw [List.forall_mem_cons, ← ih]
    constructor
    · rintro ⟨_, h⟩
      obtain ⟨y, t, hy, ht, rfl⟩ := List.forall₂_cons_left_iff.mp h
      exact ⟨⟨y, hy⟩, t, ht⟩
    · rintro ⟨⟨y, hy⟩, t, ht⟩
      exact ⟨y :: t, .cons hy ht⟩

theorem forall₂_typedForm_of_checkTable {rs : List RawDescriptor} {t : List Descriptor} (h : checkTable rs = .ok t) :
    List.Forall₂ TypedForm rs t :=
  (checkTable_eq_ok_iff.mp h).imp fun _ _ hy => (checkDescriptor_eq_ok_iff.mp hy).2.2

/-- The typed table has the ids of the raw one. -/
theorem map_id_of_forall₂_typedForm {rs : List RawDescriptor} {t : List Descriptor} (h : List.Forall₂ TypedForm rs t) :
    t.map (·.id) = rs.map (·.id) := by
  induction h with
  | nil => rfl
  | cons hxy _ ih => rw [List.map_cons, List.map_cons, hxy.1, ih]

/-! ### The configuration -/

/-- The configuration with a typed table and the other items as handed over. -/
def typedCfg (r : RawCfg) (t : List Descriptor) : Cfg :=
  ⟨t, r.textMap, r.burstLabels, r.hexCap, r.queueDepth, r.oddDigitPolicy⟩

theorem burstLabelOk_iff {l : Bytes} : burstLabelOk l = true ↔ 1 ≤ l.length ∧ l.length ≤ 9 := by
  rw [burstLabelOk, Bool.and_eq_true, decide_eq_true_eq, decide_eq_true_eq, Config.labelMax]

/-- A well-formed configuration, item by item (70_reset_and_hazards.md R353). -/
theorem cfgWf_iff {c : Cfg} :
    cfgWf c = true ↔ (c.regTable.map (·.id)).Nodup ∧ (∀ l ∈ c.burstLabels, 1 ≤ l.length ∧ l.length ≤ 9) ∧
      c.hexCap % 2 = 1 ∧ 3 ≤ c.hexCap ∧ 1 ≤ c.queueDepth ∧ c.queueDepth ≤ 65535 := by
  simp only [cfgWf, Config.idsUnique, hexCapOk, queueDepthOk, Bool.and_eq_true, decide_eq_true_eq, List.all_eq_true,
    burstLabelOk_iff, and_assoc]

/-- Exactly what the check of a configuration lets through, and what it answers (70_reset_and_hazards.md R353). -/
theorem checkCfg_eq_ok_iff {r : RawCfg} {c : Cfg} :
    checkCfg r = .ok c ↔ ∃ t, checkTable r.regTable = .ok t ∧ cfgWf (typedCfg r t) = true ∧ c = typedCfg r t := by
  unfold checkCfg
  cases checkTable r.regTable with
  | error p => simp
  | ok t =>
    simp only [Except.ok.injEq, exists_eq_left', cfgWf, typedCfg]
    split_ifs with hids hlabels hhex hqueue
    · simp [hids]
    · simp [hlabels]
    · simp [hhex]
    · simp [hqueue]
    · rw [Bool.not_eq_false] at hids hlabels hhex hqueue
      simp [hids, hlabels, hhex, hqueue, eq_comm]

/-- What is built stands in the state after RESET (70_reset_and_hazards.md R350). -/
theorem build_eq_ok_iff {r : RawCfg} {s : State} :
    build r = .ok s ↔ ∃ t, checkTable r.regTable = .ok t ∧ cfgWf (typedCfg r t) = true ∧
      s = State.ofCfg (typedCfg r t) := by
  have hparts : build r = .ok s ↔ ∃ c, checkCfg r = .ok c ∧ s = State.ofCfg c := by
    unfold build
    cases checkCfg r <;> simp [eq_comm]
  rw [hparts]
  constructor
  · rintro ⟨c, hc, rfl⟩
    obtain ⟨t, ht, hwf, rfl⟩ := checkCfg_eq_ok_iff.mp hc
    exact ⟨t, ht, hwf, rfl⟩
  · rintro ⟨t, ht, hwf, rfl⟩
    exact ⟨typedCfg r t, checkCfg_eq_ok_iff.mpr ⟨t, ht, hwf, rfl⟩, rfl⟩

/-- With a typed table at hand, R353 asks of the raw configuration what is asked of the typed one. -/
theorem cfgWf_typedCfg_iff {r : RawCfg} {t : List Descriptor} (ht : checkTable r.regTable = .ok t) :
    cfgWf (typedCfg r t) = true ↔
      (r.regTable.map (·.id)).Nodup ∧ (∀ l ∈ r.burstLabels, 1 ≤ l.length ∧ l.length ≤ 9) ∧
        r.hexCap % 2 = 1 ∧ 3 ≤ r.hexCap ∧ 1 ≤ r.queueDepth ∧ r.queueDepth ≤ 65535 := by
  rw [cfgWf_iff, ← map_id_of_forall₂_typedForm (forall₂_typedForm_of_checkTable ht)]
  rfl

/-- Settles O57: each item of the statement is what one check lets through. -/
theorem buildRefusesIllFormed : Obligations.BuildRefusesIllFormed := by
  intro r
  simp only [← exists_checkDescriptor_eq_ok_iff, ← exists_checkTable_eq_ok_iff]
  refine ⟨⟨?_, ?_⟩, ?_⟩
  · rintro ⟨s, hs⟩
    obtain ⟨t, ht, hwf, -⟩ := build_eq_ok_iff.mp hs
    exact ⟨⟨t, ht⟩, (cfgWf_typedCfg_iff ht).mp hwf⟩
  · rintro ⟨⟨t, ht⟩, hitems⟩
    exact ⟨_, build_eq_ok_iff.mpr ⟨t, ht, (cfgWf_typedCfg_iff ht).mpr hitems, rfl⟩⟩
  · intro s hs
    obtain ⟨t, ht, -, rfl⟩ := build_eq_ok_iff.mp hs
    exact ⟨rfl, forall₂_typedForm_of_checkTable ht, rfl, rfl, rfl, rfl, rfl⟩

end Sys2Proof.Machine
end

section
/-! SUPPORT. What an encoder and a decoder of frames answer (spec 40_frame_codec.md): the round trip of strings and of
Frame records, ENCODE, even digit counts, and what the checksum detects. -/

namespace Sys2Proof.Machine

/-! ### The round trip of a string -/

/-- Settles O10: the digits spell the string and its checksum byte, whose sum is valid. -/
theorem codecRoundTrip : Obligations.CodecRoundTrip := by
  intro policy strict bs hpos hmax hcmd
  cases bs with
  | nil => exact absurd hpos (by decide)
  | cons cmd rest => exact hexDecode_frameDigits policy strict hcmd (Nat.le_of_lt_succ hmax)

/-! ### ENCODE -/

theorem exec_encode (bs : Bytes) (s : State) :
    exec (.encode bs) s = .next { s with result := some (.bytes (encodeFrame bs)) } := rfl

/-- Outside 1..512 bytes there is no frame (40_frame_codec.md R140). -/
theorem encodeFrame_of_length {bs : Bytes} (h : bs.length < 1 ∨ 512 < bs.length) : encodeFrame bs = [] := by
  cases bs with
  | nil => rfl
  | cons c rest => exact if_pos (h.resolve_left (by simp))

theorem length_encodeFrame {c : Byte} {rest : Bytes} (h : rest.length ≤ 511) :
    (encodeFrame (c :: rest)).length = 2 * (c :: rest).length + 3 := by
  rw [encodeFrame_digits h, List.length_cons, List.length_append, length_frameDigits h, List.length_cons]
  rfl

/-- Settles O8: the frame of `encodeFrame_cons`, with the checksum's two digits written out. -/
theorem encodeAnswersTheFrame : Obligations.EncodeAnswersTheFrame := by
  refine ⟨hexu_eq_getD, fun bs s => ⟨encodeFrame bs, exec_encode bs s, encodeFrame_of_length, ?_⟩⟩
  rintro ⟨hpos, hmax⟩
  cases bs with
  | nil => exact absurd hpos (by decide)
  | cons c rest =>
    have hrest : rest.length ≤ 511 := Nat.le_of_lt_succ hmax
    refine ⟨?_, length_encodeFrame hrest⟩
    rw [encodeFrame_cons hrest, List.flatMap_append, List.cons_append, List.append_assoc]
    rfl

/-! ### Even digit counts -/

/-- HexDecode reads only the digits the policy leaves (40_frame_codec.md R144, R145). -/
theorem hexDecode_congr {p q : OddDigitPolicy} {h k : Bytes} (strict : Bool) (he : oddDigits p h = oddDigits q k) :
    hexDecode p strict h = hexDecode q strict k := by
  rw [hexDecode, he, hexDecode]

theorem oddDigits_reject_of_even {h : Bytes} (he : h.length % 2 = 0) : oddDigits .reject h = none := by
  rw [oddDigits, if_pos he]

/-- Settles O11: after the drop the count is odd, and no policy touches an odd count. -/
theorem evenDigitCounts : Obligations.EvenDigitCounts := by
  refine ⟨rfl, fun h strict he => ⟨?_, fun policy hne => hexDecode_congr strict ?_⟩⟩
  · rw [hexDecode, oddDigits_reject_of_even he]
  · have hpos := List.length_pos_of_ne_nil hne
    have hodd : h.dropLast.length % 2 = 1 := by rw [List.length_dropLast]; omega
    calc oddDigits .ignoreLast h
        = some h.dropLast := oddDigits_eq_some_iff.mpr (.inr ⟨he, rfl, rfl⟩)
      _ = oddDigits policy h.dropLast := (oddDigits_eq_some_iff.mpr (.inl ⟨hodd, rfl⟩)).symm

/-! ### What the checksum detects -/

/-- The checksum as a formula over the integers (40_frame_codec.md R143). -/
theorem checksum_toNat_eq_emod (s : Bytes) : ((checksum s).toNat : Int) = (0x55 - (sumBytes s : Int)) % 256 := by
  rw [checksum_toNat]
  omega

/-- Settles O9: the word subtraction of `checksum` is the integer formula of R143. -/
theorem checksumMakesAStringValid : Obligations.ChecksumMakesAStringValid :=
  ⟨checksum_toNat_eq_emod, sumValid_concat_checksum, by decide⟩

theorem sumBytes_modify (f : Byte → Byte) {t : Bytes} {k : Nat} (h : k < t.length) :
    sumBytes (t.modify k f) + t[k].toNat = sumBytes t + (f t[k]).toNat := by
  induction t generalizing k with
  | nil => exact absurd h (Nat.not_lt_zero k)
  | cons b t ih =>
    cases k with
    | zero => simp only [List.modify_zero_cons, sumBytes_cons, List.getElem_cons_zero]; omega
    | succ k =>
      have hk := ih (Nat.lt_of_succ_lt_succ h)
      simp only [List.modify_succ_cons, sumBytes_cons, List.getElem_cons_succ]
      omega

/-- Any change of a single byte of a valid string is detected, because the sum moves by less than 256
(40_frame_codec.md R153). -/
theorem sumValid_modify_of_ne {f : Byte → Byte} {t : Bytes} {k : Nat} (hvalid : sumValid t = true) (h : k < t.length)
    (hne : f t[k] ≠ t[k]) : sumValid (t.modify k f) = false := by
  have hsum := sumBytes_modify f h
  have hnat : (f t[k]).toNat ≠ t[k].toNat := mt BitVec.eq_of_toNat_eq hne
  have hold := t[k].isLt
  have hnew := (f t[k]).isLt
  simp only [sumValid, decide_eq_true_eq, decide_eq_false_iff_not] at hvalid ⊢
  omega

theorem xor_twoPow_ne (b : Byte) (j : Fin 8) : b ^^^ BitVec.twoPow 8 j ≠ b := by
  intro h
  have hbit := congrArg (·.getLsbD j) h
  simp at hbit

/-- Settles O15: a flipped bit is a change of a single byte. -/
theorem singleBitFlipIsDetected : Obligations.SingleBitFlipIsDetected :=
  fun _ _ j hvalid hk => sumValid_modify_of_ne hvalid hk (xor_twoPow_ne _ j)

/-- The command byte a receiver reads from the one digit that was sent: the low nibble (40_frame_codec.md R141). -/
def sentCommand (cmd : Byte) : Byte := (cmd.extractLsb' 0 4).setWidth 8

theorem sentCommand_ne {cmd : Byte} (h : 0x0F < cmd) : sentCommand cmd ≠ cmd := fun he =>
  BitVec.not_lt.mpr (setWidth_le_0x0F (cmd.extractLsb' 0 4)) (show 0x0F < sentCommand cmd by rwa [he])

/-- The digits of an encoded frame spell its valid string with the command cut to the nibble that was sent. -/
theorem digitBytes_frameDigits_eq_modify {cmd : Byte} {rest : Bytes} (hrest : rest.length ≤ 511) :
    digitBytes (frameDigits (encodeFrame (cmd :: rest))) =
      (cmd :: rest ++ [checksum (cmd :: rest)]).modify 0 sentCommand := by
  rw [frameDigits_encode hrest, digitBytes, pairBytes_hex2, nib_hexu, List.cons_append, List.modify_zero_cons,
    sentCommand]

theorem hexDecode_frameDigits_of_high (policy : OddDigitPolicy) (strict : Bool) {cmd : Byte} {rest : Bytes}
    (hcmd : 0x0F < cmd) (hrest : rest.length ≤ 511) :
    hexDecode policy strict (frameDigits (encodeFrame (cmd :: rest))) = none := by
  have hlen := length_frameDigits (c := cmd) hrest
  have hsum : sumValid (digitBytes (frameDigits (encodeFrame (cmd :: rest)))) = false := by
    rw [digitBytes_frameDigits_eq_modify hrest]
    exact sumValid_modify_of_ne (sumValid_concat_checksum (cmd :: rest)) (by simp) (sentCommand_ne hcmd)
  rw [hexDecode_odd policy strict (by omega), hsum]
  simp

/-- Settles O14: the checksum counts the high nibble of the command, which the frame does not carry. -/
theorem highCommandNeverDecodes : Obligations.HighCommandNeverDecodes := by
  intro policy strict bs hpos hmax hcmd
  cases bs with
  | nil => exact absurd hpos (by decide)
  | cons cmd rest =>
    have hrest : rest.length ≤ 511 := Nat.le_of_lt_succ hmax
    refine ⟨?_, hexDecode_frameDigits_of_high policy strict hcmd hrest⟩
    rw [encodeFrame_cons hrest]
    exact List.cons_ne_nil _ _

/-! ### Frame records -/

theorem frameValid_iff (f : Frame) : frameValid f = true ↔ f.command ≤ 0x0F ∧ f.payload.length ≤ 508 := by
  rw [frameValid, Bool.and_eq_true, decide_eq_true_eq, decide_eq_true_eq]
  rfl

/-- The two bytes of an id are its low half and its high half. -/
theorem idBytes_toNat (id : RegId) : (id.extractLsb' 0 8).toNat + 256 * (id.extractLsb' 8 8).toNat = id.toNat := by
  simp only [BitVec.extractLsb'_toNat, Nat.shiftRight_eq_div_pow]
  omega

theorem serialize_eq (f : Frame) :
    serialize f = [f.command, f.registerId.extractLsb' 0 8, f.registerId.extractLsb' 8 8, f.flags] ++ f.payload := by
  rw [serialize, idBytes, BitVec.setWidth_eq_extractLsb' (by decide)]
  rfl

theorem length_serialize (f : Frame) : (serialize f).length = f.payload.length + 4 := by
  rw [serialize_eq, List.length_append, Nat.add_comm]; rfl

theorem frameId_serialize (f : Frame) : frameId (serialize f) = f.registerId := by
  have hread : memRead (serialize f) 1 2 = f.registerId.toNat := by
    rw [memRead_two (by rw [length_serialize]; omega), serialize_eq]
    exact idBytes_toNat f.registerId
  rw [frameId, hread, BitVec.ofNat_toNat, BitVec.setWidth_eq]

theorem deserialize_of_length {d : Bytes} (h : 4 ≤ d.length) :
    deserialize d = some ⟨frameCmd d, frameId d, frameFlags d, valueField d⟩ := if_pos h

theorem deserialize_serialize (f : Frame) : deserialize (serialize f) = some f := by
  rw [deserialize_of_length (by rw [length_serialize]; omega), frameId_serialize]
  rfl

/-- Settles O13: the codec gives the serialized record back, and `deserialize` reads the record from it. -/
theorem frameRecordRoundTrip : Obligations.FrameRecordRoundTrip := by
  refine ⟨frameValid_iff, serialize_eq, fun d hd => ?_, deserialize_serialize, fun f hf => ?_⟩
  · rw [deserialize_of_length hd, frameCmd, List.headD_eq_getD]
    rfl
  · obtain ⟨hcmd, hpayload⟩ := (frameValid_iff f).mp hf
    have hlen := length_serialize f
    refine ⟨by omega, by omega, fun policy strict => ?_⟩
    rw [codecRoundTrip policy strict (serialize f) (by omega) (by omega) hcmd, Option.bind_some, deserialize_serialize]

end Sys2Proof.Machine
end

section
/-! SUPPORT. DECODE_FRAME over a whole string (spec 40_frame_codec.md R151): what its loop does with a run of bytes. -/

namespace Sys2Proof.Machine

theorem exec_decodeFrame (bs : Bytes) (s : State) :
    exec (.decodeFrame bs) s =
      .next { s with result := some (.decoded (decodeLoop s.cfg s.hexStrict none bs)) } := rfl

section Loop

variable (c : Cfg) (strict : Bool)

/-- Bytes before the first `:` are skipped. -/
theorem decodeLoop_append_before {before : Bytes} (h : chColon ∉ before) (bs : Bytes) :
    decodeLoop c strict none (before ++ bs) = decodeLoop c strict none bs := by
  induction before with
  | nil => rfl
  | cons b before ih =>
    obtain ⟨hb, hrest⟩ := List.ne_and_not_mem_of_not_mem_cons h
    rw [List.cons_append, decodeLoop_before c strict (Ne.symm hb), ih hrest]

/-- Bytes without LF leave the loop running, with some digits accumulated or none yet. -/
theorem exists_decodeLoop_append_of_lf_notMem {restarts : Bytes} (h : chLf ∉ restarts) (acc : Option Bytes) :
    ∃ acc', ∀ bs, decodeLoop c strict acc (restarts ++ bs) = decodeLoop c strict acc' bs := by
  induction restarts generalizing acc with
  | nil => exact ⟨acc, fun _ => rfl⟩
  | cons b restarts ih =>
    obtain ⟨hb, hrest⟩ := List.ne_and_not_mem_of_not_mem_cons h
    have hstep : ∃ acc₁, ∀ bs, decodeLoop c strict acc (b :: bs) = decodeLoop c strict acc₁ bs := by
      by_cases hcolon : b = chColon
      · exact hcolon ▸ ⟨some [], decodeLoop_colon c strict acc⟩
      · cases acc with
        | none => exact ⟨none, decodeLoop_before c strict hcolon⟩
        | some ds => exact ⟨_, decodeLoop_digit c strict hcolon (Ne.symm hb) ds⟩
    obtain ⟨acc₁, hacc₁⟩ := hstep
    obtain ⟨acc₂, hacc₂⟩ := ih hrest acc₁
    exact ⟨acc₂, fun bs => (hacc₁ (restarts ++ bs)).trans (hacc₂ bs)⟩

/-- Bytes after a `:` are accumulated while there is room below HEX_CAP, and the rest are dropped. -/
theorem decodeLoop_append_digits {digits : Bytes} (hc : chColon ∉ digits) (hl : chLf ∉ digits) (ds bs : Bytes) :
    decodeLoop c strict (some ds) (digits ++ bs) =
      decodeLoop c strict (some (ds ++ digits.take (c.hexCap - ds.length))) bs := by
  induction digits generalizing ds with
  | nil => simp
  | cons b digits ih =>
    obtain ⟨hbc, hc⟩ := List.ne_and_not_mem_of_not_mem_cons hc
    obtain ⟨hbl, hl⟩ := List.ne_and_not_mem_of_not_mem_cons hl
    rw [List.cons_append, decodeLoop_digit c strict (Ne.symm hbc) (Ne.symm hbl), ih hc hl]
    by_cases hroom : ds.length < c.hexCap
    · have hleft : c.hexCap - ds.length = c.hexCap - (ds ++ [b]).length + 1 := by
        rw [List.length_append, List.length_singleton]; omega
      rw [if_pos hroom, hleft, List.take_succ_cons, List.append_assoc, List.singleton_append]
    · have hfull : c.hexCap - ds.length = 0 := by omega
      rw [if_neg hroom, hfull, List.take_zero, List.take_zero]

/-- A string with no LF after its first `:` leaves the loop running. -/
theorem exists_decodeLoop_append_restarts {before restarts : Bytes} (hbefore : chColon ∉ before)
    (hrestarts : chLf ∉ restarts) :
    ∃ acc, ∀ bs, decodeLoop c strict none (before ++ restarts ++ bs) = decodeLoop c strict acc bs := by
  obtain ⟨acc, hacc⟩ := exists_decodeLoop_append_of_lf_notMem c strict hrestarts none
  refine ⟨acc, fun bs => ?_⟩
  rw [List.append_assoc, decodeLoop_append_before c strict hbefore, hacc]

end Loop

/-- Settles O16: the `:` empties the accumulator, whatever stands in it, and LF decodes what it holds. -/
theorem decodeFrameReadsTheFirstFrame : Obligations.DecodeFrameReadsTheFirstFrame := by
  intro before restarts s hbefore hrestarts
  obtain ⟨acc, hacc⟩ := exists_decodeLoop_append_restarts s.cfg s.hexStrict hbefore hrestarts
  constructor
  · rw [exec_decodeFrame, ← List.append_nil (before ++ restarts), hacc, decodeLoop_nil]
  · intro digits after hc hl
    rw [exec_decodeFrame, hacc, decodeLoop_colon, decodeLoop_append_digits _ _ hc hl, decodeLoop_stop,
      List.nil_append, List.length_nil, Nat.sub_zero]

end Sys2Proof.Machine
end

section
/-! SUPPORT. The rows of the received bytes, state by state of the parser (spec 41_record_parser.md R173-R186): what the
parser answers, then the row as a step of the machine. -/

namespace Sys2Proof.Machine

/-! ### What the parser answers -/

section
variable {c : Cfg} {b : Byte} {p : Parser}

theorem parseTab_of_readingLabel (h : p.ps = .readingLabel) : parseTab p = ({ p with ps := .sawTab }, .none) := by
  rw [parseTab, h]

/-- A tab outside a label is ignored (41_record_parser.md R175). -/
theorem parseTab_of_ne_readingLabel (h : p.ps ≠ .readingLabel) : parseTab p = (p, .none) := by
  unfold parseTab
  cases hps : p.ps with
  | readingLabel => exact absurd hps h
  | idle | sawTab | readingValue | readingHexDigits => rfl

/-- Where CR or LF begins a new record without an event (41_record_parser.md R176, R179). -/
def Parser.OnFreshLine (p : Parser) : Prop :=
  p.ps = .idle ∨ p.ps = .readingLabel ∨ p.ps = .sawTab ∨ (p.ps = .readingValue ∧ p.lbuf = []) ∨
    (p.ps = .readingHexDigits ∧ p.hbuf = [])

theorem parseEol_of_onFreshLine (strict : Bool) (h : p.OnFreshLine) : parseEol c strict p = freshLine := by
  unfold parseEol
  rcases h with h | h | h | ⟨h, hl⟩ | ⟨h, hh⟩ <;> rw [h]
  · exact if_pos hl
  · exact if_pos hh

theorem parseEol_of_record (strict : Bool) (h : p.ps = .readingValue) (hl : p.lbuf ≠ []) :
    parseEol c strict p = completeRecord p := by
  rw [parseEol, h]
  exact if_neg hl

theorem parseEol_of_frame (strict : Bool) (h : p.ps = .readingHexDigits) (hh : p.hbuf ≠ []) :
    parseEol c strict p = completeFrame c strict p := by
  rw [parseEol, h]
  exact if_neg hh

theorem parseLabelClass_of_readingLabel (h : p.ps = .readingLabel) : parseLabelClass c b p = labelByte b p := by
  rw [parseLabelClass, h]

theorem parseOtherClass_of_readingLabel (h : p.ps = .readingLabel) : parseOtherClass c b p = badLabelByte b p := by
  rw [parseOtherClass, h]

theorem parseLabelClass_of_idle (h : p.ps = .idle) : parseLabelClass c b p = (p, .none) := by
  rw [parseLabelClass, h]

theorem parseLabelClass_of_sawTab (h : p.ps = .sawTab) : parseLabelClass c b p = firstValueByte b p := by
  rw [parseLabelClass, h]

theorem parseLabelClass_of_readingValue (h : p.ps = .readingValue) : parseLabelClass c b p = valueByte b p := by
  rw [parseLabelClass, h]

theorem parseLabelClass_of_readingHexDigits (h : p.ps = .readingHexDigits) : parseLabelClass c b p = hexByte c b p := by
  rw [parseLabelClass, h]

/-- Only a label tells the class OTHER from the label classes (41_record_parser.md R181-R186). -/
theorem parseOtherClass_eq_parseLabelClass (h : p.ps ≠ .readingLabel) :
    parseOtherClass c b p = parseLabelClass c b p := by
  unfold parseOtherClass parseLabelClass
  cases hps : p.ps with
  | readingLabel => exact absurd hps h
  | idle | sawTab | readingValue | readingHexDigits => rfl

theorem valueByte_eq (b : Byte) (p : Parser) :
    valueByte b p =
      ({ p with vbuf := if p.vbuf.length < Config.valueMax then p.vbuf ++ [b] else p.vbuf }, .none) := by
  unfold valueByte
  split <;> rfl

theorem hexByte_eq (c : Cfg) (b : Byte) (p : Parser) :
    hexByte c b p =
      ({ p with hbuf := if ishex b = true ∧ p.hbuf.length < c.hexCap then p.hbuf ++ [b] else p.hbuf }, .none) := by
  unfold hexByte
  split <;> rfl

end

/-! ### The rows as steps -/

section
variable {s : State}

/-- A byte without an event outside hex mode: the parser registers are written and the byte is echoed. -/
theorem State.receive_none_textMode {p : Parser} (hpre : s.parser.ps ≠ .readingHexDigits)
    (hpost : p.ps ≠ .readingHexDigits) (b : Byte) :
    s.receive b (p, .none) = { s with parser := p, result := none, trace := s.trace ++ s.echoOutput b } :=
  State.receive_textMode hpre hpost b

/-- The two bytes that end a line are parsed alike (41_record_parser.md R176-R180). -/
theorem exec_of_mem_eolRows {r : Instr × Byte} (hr : r ∈ [(Instr.byteCr, (0x0D : Byte)), (.byteLf, 0x0A)]) :
    exec r.1 s = .next (s.receive r.2 (parseEol s.cfg s.hexStrict s.parser)) := by
  rcases List.mem_pair.mp hr with rfl | rfl <;> rfl

/-- The end of a line in hex mode has no echo, so it does not matter which byte it is (41_record_parser.md R187). -/
theorem exec_eol_hexMode (h : s.parser.ps = .readingHexDigits) {i : Instr} (hi : i ∈ [Instr.byteCr, .byteLf]) :
    exec i s = .next ((s.parsed (parseEol s.cfg s.hexStrict s.parser).1).follow
      (parseEol s.cfg s.hexStrict s.parser).2) := by
  rcases List.mem_pair.mp hi with rfl | rfl <;> exact congrArg Host.Outcome.next (State.receive_hexMode (.inl h) _)

/-- Outside a label the rows of the classes HEXDIG, LABELONLY and OTHER are one. -/
theorem exec_of_mem_otherRows {b : Byte} {i : Instr} (hi : i ∈ otherRows b) (h : s.parser.ps ≠ .readingLabel) :
    exec i s = .next (s.receive b (parseLabelClass s.cfg b s.parser)) := by
  simp only [otherRows, List.mem_cons, List.not_mem_nil, or_false] at hi
  rcases hi with rfl | rfl | rfl
  · rfl
  · rfl
  · rw [← parseOtherClass_eq_parseLabelClass h]; rfl

end

/-- Settles O25: a colon leaves hex mode on, so it has no echo; a tab has one outside hex mode. -/
theorem colonAndTab : Obligations.ColonAndTab := by
  intro s
  refine ⟨congrArg Host.Outcome.next (State.receive_hexMode (.inr rfl) chColon), ?_⟩
  show Host.Outcome.next (s.receive chTab (parseTab s.parser)) = _
  split_ifs with hlabel hhex
  · rw [parseTab_of_readingLabel hlabel]
    exact congrArg Host.Outcome.next (State.receive_none_textMode (by rw [hlabel]; nofun) (by nofun) chTab)
  · rw [parseTab_of_ne_readingLabel hlabel, State.receive_hexMode (.inl hhex)]
    rfl
  · rw [parseTab_of_ne_readingLabel hlabel, State.receive_none_textMode hhex hhex]

/-- Settles O26: the new record is outside hex mode, so only hex mode before the byte keeps it from being echoed. -/
theorem freshLineBeginsARecord : Obligations.FreshLineBeginsARecord := by
  intro s hfresh r hr
  rw [exec_of_mem_eolRows hr, parseEol_of_onFreshLine _ hfresh]
  split_ifs with hhex
  · rw [State.receive_hexMode (.inl hhex), List.append_nil]
    rfl
  · exact congrArg Host.Outcome.next (State.receive_none_textMode hhex (by nofun) r.2)

/-- Settles O27: the echo, then what follows a TextField of the parser. -/
theorem recordCompletes : Obligations.RecordCompletes := by
  intro s hps hlabel r hr
  rw [exec_of_mem_eolRows hr, parseEol_of_record _ hps hlabel]
  exact congrArg Host.Outcome.next (State.receive_textMode (by rw [hps]; nofun) (by nofun) r.2)

/-- A decoded buffer is its command and the rest (40_frame_codec.md R147). -/
theorem exists_cons_of_hexDecode {policy : OddDigitPolicy} {strict : Bool} {h d : Bytes}
    (hd : hexDecode policy strict h = some d) : ∃ cmd rest, d = cmd :: rest ∧ cmd ≤ 0x0F := by
  obtain ⟨h3, hlen, hcmd, -⟩ := shape_of_hexDecode_eq_some hd
  cases d with
  | nil => rw [List.length_nil] at hlen; omega
  | cons cmd rest => exact ⟨cmd, rest, rfl, hcmd⟩

/-- Settles O28: the dispatch of a decoded buffer is the row of its command. -/
theorem hexFrameEnds : Obligations.HexFrameEnds := by
  intro s hps hdigits i hi
  rw [exec_eol_hexMode hps hi, parseEol_of_frame _ hps hdigits, completeFrame]
  cases hd : hexDecode s.cfg.oddDigitPolicy s.hexStrict s.parser.hbuf with
  | none => rfl
  | some d =>
    obtain ⟨cmd, rest, rfl, hcmd⟩ := exists_cons_of_hexDecode hd
    exact (exec_frameInstr hcmd rest _ _).symm

/-- A label byte in a label, with its echo (41_record_parser.md R183). -/
theorem State.receive_labelByte {s : State} (hps : s.parser.ps = .readingLabel) (b : Byte) :
    s.receive b (labelByte b s.parser) =
      if s.parser.lbuf.length < 9 then
        { s with
          parser := { s.parser with lbuf := s.parser.lbuf ++ [b] }, result := none
          trace := s.trace ++ s.echoOutput b }
      else
        { s with
          parser := { s.parser with ps := .idle, lbuf := [] }, result := none
          trace := s.trace ++ s.echoOutput b ++ [.evt (.error .labelTooLong)] } := by
  have hpre : s.parser.ps ≠ .readingHexDigits := by rw [hps]; nofun
  unfold labelByte
  split_ifs with hroom hfull hfull
  · exact State.receive_none_textMode hpre (by exact hpre) b
  · exact absurd hroom hfull
  · exact absurd hfull hroom
  · exact State.receive_textMode hpre (by nofun) b

/-- Settles O29: the two label classes are parsed alike. -/
theorem labelBytes : Obligations.LabelBytes := by
  intro b s hps
  constructor
  · intro i hi
    rw [← State.receive_labelByte hps, ← parseLabelClass_of_readingLabel (c := s.cfg) hps]
    rcases List.mem_pair.mp hi with rfl | rfl <;> rfl
  · show Host.Outcome.next (s.receive b (parseOtherClass s.cfg b s.parser)) = _
    rw [parseOtherClass_of_readingLabel hps]
    exact congrArg Host.Outcome.next (State.receive_textMode (by rw [hps]; nofun) (by nofun) b)

/-- Settles O30: outside a label the three rows are one, and the parser state selects its action. -/
theorem otherBytesOutsideALabel : Obligations.OtherBytesOutsideALabel := by
  intro b s i hi
  refine ⟨fun hps => ?_, fun hps => ?_, fun hps => ?_, fun hps => ?_⟩ <;>
    rw [exec_of_mem_otherRows hi (by rw [hps]; nofun)]
  · have hpre : s.parser.ps ≠ .readingHexDigits := by rw [hps]; nofun
    rw [parseLabelClass_of_idle hps, State.receive_none_textMode hpre hpre]
  · rw [parseLabelClass_of_sawTab hps]
    exact congrArg Host.Outcome.next (State.receive_none_textMode (by rw [hps]; nofun) (by nofun) b)
  · have hpre : s.parser.ps ≠ .readingHexDigits := by rw [hps]; nofun
    rw [parseLabelClass_of_readingValue hps, valueByte_eq]
    exact congrArg Host.Outcome.next (State.receive_none_textMode hpre (by exact hpre) b)
  · rw [parseLabelClass_of_readingHexDigits hps, hexByte_eq, State.receive_hexMode (.inl hps)]
    rfl

end Sys2Proof.Machine
end

section
/-! SUPPORT. What one received byte puts out (spec 41_record_parser.md R171): its echo, then the first event, then an
error of the register decode or a cache change, then a transmit. The first event and the error depend on the configuration and
the parser's own event alone. -/

namespace Sys2Proof.Machine

@[simp] theorem outputEvent_comp_evt : outputEvent ∘ Output.evt = some := rfl

@[simp] theorem outputEcho_comp_echo : outputEcho ∘ Output.echo = some := rfl

/-! ### After the first event -/

/-- The events after the first: the error, where the configuration and the frame determine one, else a cache change or
nothing, as the cache has it. -/
def SecondEvents : Option BlockError → List Event → Prop
  | some e, second => second = [.error e]
  | none, second => second = [] ∨ ∃ id sc v, second = [.cacheChange id sc v]

section
variable {err : Option BlockError} {second : List Event}

theorem SecondEvents.length_le_one (h : SecondEvents err second) : second.length ≤ 1 := by
  cases err with
  | some e => rw [show second = [.error e] from h]; rfl
  | none => rcases h with rfl | ⟨id, sc, v, rfl⟩ <;> simp

theorem SecondEvents.isError_or_isCacheChange (h : SecondEvents err second) :
    ∀ e ∈ second, isError e = true ∨ isCacheChange e = true := by
  cases err with
  | some e => rw [show second = [.error e] from h]; simp [isError]
  | none => rcases h with rfl | ⟨id, sc, v, rfl⟩ <;> simp [isCacheChange]

theorem SecondEvents.textField_notMem (h : SecondEvents err second) (label value : Bytes) :
    Event.textField label value ∉ second := fun hmem => by
  rcases h.isError_or_isCacheChange _ hmem with h | h <;> cases h

/-- Without the cache changes only the error is left. -/
theorem SecondEvents.filter_eq (h : SecondEvents err second) :
    second.filter (fun e => !isCacheChange e) = err.toList.map .error := by
  cases err with
  | some e => rw [show second = [.error e] from h]; rfl
  | none => rcases h with rfl | ⟨id, sc, v, rfl⟩ <;> rfl

end

section
variable (s : State)

theorem State.setRegister_secondEvents (id : RegId) (sc : Scale) (v : RegValue) :
    ∃ second, SecondEvents none second ∧ (s.setRegister id sc v).trace = s.trace ++ second.map .evt := by
  refine ⟨_, ?_, s.setRegister_trace id sc v⟩
  unfold setEvents
  split
  · exact .inr ⟨id, sc, v, rfl⟩
  · exact .inl rfl

theorem State.textClassify_secondEvents (label value : Bytes) :
    ∃ second, SecondEvents none second ∧ (s.textClassify label value).trace = s.trace ++ second.map .evt := by
  rcases s.textClassify_cases label value with h | ⟨m, x, -, -, h⟩ <;> rw [h]
  · exact ⟨[], .inl rfl, by simp⟩
  · exact s.setRegister_secondEvents m.id m.scale x

theorem State.burstCount_trace (label : Bytes) :
    ∃ sent : List Bytes, sent.length ≤ 1 ∧ (s.burstCount label).trace = s.trace ++ sent.map .tx := by
  rcases s.burstCount_cases label with ⟨-, h⟩ | ⟨-, h⟩ | ⟨e, q, -, -, -, h⟩ <;> rw [h]
  · exact ⟨[], by simp⟩
  · exact ⟨[], by simp⟩
  · exact ⟨[encodeFrame e], by simp⟩

end

/-- Whether the register decode ends in an error, and in which, is a matter of the table and the frame; the cache only
decides whether a set is a change (43_register_decode.md R231-R235). -/
theorem State.regDecode_secondEvents (c : Cfg) (d : Bytes) (id : RegId) (fl : Byte) :
    ∃ err, ∀ s : State, s.cfg = c →
      ∃ second, SecondEvents err second ∧ (s.regDecode d id fl).trace = s.trace ++ second.map .evt := by
  unfold State.regDecode
  by_cases hshort : d.length < 5
  · exact ⟨some _, fun s _ => ⟨_, rfl, by simp only [hshort, if_true]; rfl⟩⟩
  · simp only [hshort, if_false]
    cases hfind : regFind id c.regTable with
    | none => exact ⟨some _, fun s hs => ⟨_, rfl, by rw [hs, hfind]; rfl⟩⟩
    | some x =>
      cases hvalue : decodeValue x.body d with
      | none => exact ⟨some _, fun s hs => ⟨_, rfl, by rw [hs, hfind]; simp only [hvalue]; rfl⟩⟩
      | some v =>
        refine ⟨none, fun s hs => ?_⟩
        rw [hs, hfind]
        simp only [hvalue]
        exact s.setRegister_secondEvents id x.body.scale v

/-- The dispatch as the frame alone selects it: an error, a Frame event, or a Frame event and the register decode
(42_frame_dispatch.md R210). -/
theorem State.dispatch_eq (d raw : Bytes) :
    (∃ e, ∀ s : State, s.dispatch d raw = s.raise e) ∨
    (∃ f, ∀ s : State, s.dispatch d raw = s.emit (.frame f)) ∨
    (∃ f, ∀ s : State, s.dispatch d raw = (s.emit (.frame f)).regDecode d (frameId d) (frameFlags d)) := by
  unfold State.dispatch
  cases cmdClass (frameCmd d) with
  | reg =>
    by_cases hshort : d.length < 4
    · exact .inl ⟨_, fun _ => if_pos hshort⟩
    · exact .inr (.inr ⟨_, fun _ => if_neg hshort⟩)
  | ping =>
    by_cases hshort : d.length < 3
    · exact .inl ⟨_, fun _ => if_pos hshort⟩
    · exact .inr (.inl ⟨_, fun _ => if_neg hshort⟩)
  | none => exact .inr (.inl ⟨_, fun _ => rfl⟩)

/-! ### What follows the parser's event -/

/-- What the first event of a step can be: at most one, no cache change, and a TextField only for the parser's own. -/
structure FirstEvents (ev : ParserEvent) (first : List Event) : Prop where
  length_le_one : first.length ≤ 1
  not_cacheChange : ∀ e ∈ first, isCacheChange e = false
  of_textField : ∀ label value, Event.textField label value ∈ first → ev = .text label value

/-- What a step from `s` to `t` appends: the first event, which ends the step if it is an error, then the second, then a
transmit (41_record_parser.md R171, 60_exceptions.md R325, R326). -/
structure Follows (first : List Event) (err : Option BlockError) (second : List Event) (sent : List Bytes)
    (s t : State) : Prop where
  trace_eq : t.trace = s.trace ++ first.map .evt ++ second.map .evt ++ sent.map .tx
  second_events : SecondEvents err second
  sent_length : sent.length ≤ 1
  none_after_none : first = [] → second = []
  none_after_error : ∀ e ∈ first, isError e = true → second = []

theorem FirstEvents.nil (ev : ParserEvent) : FirstEvents ev [] := ⟨by simp, by simp, by simp⟩

theorem FirstEvents.error (ev : ParserEvent) (e : BlockError) : FirstEvents ev [.error e] :=
  ⟨by simp, by simp [isCacheChange], by simp⟩

theorem FirstEvents.frame (ev : ParserEvent) (f : FrameEvent) : FirstEvents ev [.frame f] :=
  ⟨by simp, by simp [isCacheChange], by simp⟩

theorem FirstEvents.textField (label value : Bytes) :
    FirstEvents (.text label value) [.textField label value] :=
  ⟨by simp, by simp [isCacheChange], by simp +contextual⟩

/-- A step whose only output is its first event. -/
theorem Follows.of_first {first : List Event} {s t : State} (h : t.trace = s.trace ++ first.map .evt) :
    Follows first none [] [] s t :=
  ⟨by simpa using h, .inl rfl, by simp, fun _ => rfl, fun _ _ _ => rfl⟩

/-- All that can follow the parser's event. The first event and the error of the register decode depend on the
configuration and the parser's event alone. -/
theorem State.follow_outputs (c : Cfg) (ev : ParserEvent) :
    ∃ first err, FirstEvents ev first ∧
      ∀ s : State, s.cfg = c → ∃ second sent, Follows first err second sent s (s.follow ev) := by
  cases ev with
  | none => exact ⟨[], none, .nil _, fun s _ => ⟨_, _, .of_first (by simp [State.follow])⟩⟩
  | err e => exact ⟨[.error e], none, .error _ e, fun s _ => ⟨_, _, .of_first rfl⟩⟩
  | text label value =>
    refine ⟨[.textField label value], none, .textField label value, fun s _ => ?_⟩
    obtain ⟨second, hsecond, hclassify⟩ := (s.emit (.textField label value)).textClassify_secondEvents label value
    obtain ⟨sent, hsent, hburst⟩ :=
      ((s.emit (.textField label value)).textClassify label value).burstCount_trace label
    exact ⟨second, sent, by rw [State.follow, hburst, hclassify]; rfl, hsecond, hsent, by simp, by simp [isError]⟩
  | hex d raw =>
    rcases State.dispatch_eq d raw with ⟨e, h⟩ | ⟨f, h⟩ | ⟨f, h⟩
    · exact ⟨[.error e], none, .error _ e, fun s _ => ⟨_, _, .of_first (congrArg State.trace (h s))⟩⟩
    · exact ⟨[.frame f], none, .frame _ f, fun s _ => ⟨_, _, .of_first (congrArg State.trace (h s))⟩⟩
    · obtain ⟨err, hdecode⟩ := State.regDecode_secondEvents c d (frameId d) (frameFlags d)
      refine ⟨[.frame f], err, .frame _ f, fun s hs => ?_⟩
      obtain ⟨second, hsecond, htrace⟩ := hdecode (s.emit (.frame f)) hs
      exact ⟨second, [], by rw [State.follow, h, htrace]; simp, hsecond, by simp, by simp, by simp [isError]⟩

section
variable {first second : List Event} {err : Option BlockError} {sent : List Bytes} {s t : State}

theorem Follows.evt_eq (h : Follows first err second sent s t) : t.evt = s.evt ++ (first ++ second) := by
  simp [State.evt, h.trace_eq, outputEvent]

theorem Follows.echo_eq (h : Follows first err second sent s t) : t.echo = s.echo := by
  simp [State.echo, h.trace_eq, outputEcho]

/-- Without the cache changes, a step appends its first event and its error. -/
theorem Follows.evtBut_eq {ev : ParserEvent} (h : Follows first err second sent s t) (hfirst : FirstEvents ev first) :
    t.evtBut = s.evtBut ++ (first ++ err.toList.map .error) := by
  have hkept : first.filter (fun e => !isCacheChange e) = first :=
    List.filter_eq_self.mpr fun e he => by simp [hfirst.not_cacheChange e he]
  rw [State.evtBut, h.evt_eq, List.filter_append, List.filter_append, hkept, h.second_events.filter_eq, ← State.evtBut]

end

/-! ### The echo and the whole step -/

/-- The echo of a step (41_record_parser.md R187). -/
def echoedBytes (en : Bool) (pre post : ParserState) (b : Byte) : Bytes := if echoes en pre post then [b] else []

theorem echoedBytes_eq (en : Bool) (pre post : ParserState) (b : Byte) :
    echoedBytes en pre post b =
      if en = true ∧ pre ≠ .readingHexDigits ∧ post ≠ .readingHexDigits then [b] else [] := by
  simp [echoedBytes, echoes, and_assoc]

theorem length_echoedBytes_le_one (en : Bool) (pre post : ParserState) (b : Byte) :
    (echoedBytes en pre post b).length ≤ 1 := by
  unfold echoedBytes
  split <;> simp

/-- The state of a received byte after its echo, before what follows the parser's event. -/
def State.answered (s : State) (b : Byte) (p : Parser) : State :=
  { s with
    parser := p, result := none
    trace := s.trace ++ (echoedBytes s.echoEn s.parser.ps p.ps b).map .echo }

theorem State.receive_eq_follow (s : State) (b : Byte) (r : Parser × ParserEvent) :
    s.receive b r = (s.answered b r.1).follow r.2 := by
  unfold State.receive State.answered State.echoIf echoedBytes
  split
  · rfl
  · rw [List.map_nil, List.append_nil]

section
variable (s : State) (b : Byte) (p : Parser)

theorem State.answered_trace : (s.answered b p).trace =
    s.trace ++ (echoedBytes s.echoEn s.parser.ps p.ps b).map .echo := rfl

@[simp] theorem State.answered_cfg : (s.answered b p).cfg = s.cfg := rfl

theorem State.echo_answered : (s.answered b p).echo = s.echo ++ echoedBytes s.echoEn s.parser.ps p.ps b := by
  simp [State.echo, State.answered_trace, outputEcho]

theorem State.evt_answered : (s.answered b p).evt = s.evt := by
  simp [State.evt, State.answered_trace, outputEvent]

theorem State.evtBut_answered : (s.answered b p).evtBut = s.evtBut := by
  rw [State.evtBut, State.evt_answered, ← State.evtBut]

end

/-- All that one received byte puts out, with the parser's answer given. -/
theorem State.receive_outputs (c : Cfg) (b : Byte) (r : Parser × ParserEvent) :
    ∃ first err, FirstEvents r.2 first ∧
      ∀ s : State, s.cfg = c → ∃ second sent, Follows first err second sent (s.answered b r.1) (s.receive b r) := by
  obtain ⟨first, err, hfirst, hfollow⟩ := State.follow_outputs c r.2
  refine ⟨first, err, hfirst, fun s hs => ?_⟩
  rw [State.receive_eq_follow]
  exact hfollow (s.answered b r.1) hs

/-- Settles O34: the echo stands before all that follows the parser's event. -/
theorem outputsStandInOrder : Obligations.OutputsStandInOrder := by
  intro b s
  obtain ⟨first, err, hfirst, hall⟩ := State.receive_outputs s.cfg b (parserStep s.cfg s.hexStrict s.parser b)
  obtain ⟨second, sent, h⟩ := hall s rfl
  exact ⟨_, _, first, second, sent, exec_rxByte b s, h.trace_eq, length_echoedBytes_le_one _ _ _ _,
    hfirst.length_le_one, h.second_events.length_le_one, h.sent_length, hfirst.not_cacheChange,
    h.second_events.isError_or_isCacheChange, h.none_after_none, h.none_after_error⟩

/-- Settles O31: nothing after the echo appends to ECHO. -/
theorem echoRule : Obligations.EchoRule := by
  intro b s
  obtain ⟨first, err, -, hall⟩ := State.receive_outputs s.cfg b (parserStep s.cfg s.hexStrict s.parser b)
  obtain ⟨second, sent, h⟩ := hall s rfl
  refine ⟨_, exec_rxByte b s, ?_⟩
  rw [h.echo_eq, State.echo_answered, echoedBytes_eq, State.receive_parser]

end Sys2Proof.Machine
end

section
/-! SUPPORT. Which events the parser itself can have, and what they depend on (spec 41_record_parser.md R189, R190): a
TextField comes only from the end of a record, and HEX_STRICT does not matter, because HBUF holds hex digits only. -/

namespace Sys2Proof.Machine

/-! ### Where a TextField comes from -/

section
variable {c : Cfg} {strict : Bool} {p : Parser} {b : Byte} {label value : Bytes}

theorem parseTab_event (p : Parser) : (parseTab p).2 = .none := by
  unfold parseTab
  split <;> rfl

theorem labelByte_event_ne_text : (labelByte b p).2 ≠ .text label value := by
  unfold labelByte
  split <;> nofun

theorem parseLabelClass_event_ne_text : (parseLabelClass c b p).2 ≠ .text label value := by
  unfold parseLabelClass
  cases p.ps with
  | readingLabel => exact labelByte_event_ne_text
  | idle | sawTab | readingValue | readingHexDigits => nofun

theorem parseOtherClass_event_ne_text : (parseOtherClass c b p).2 ≠ .text label value := by
  unfold parseOtherClass
  split <;> nofun

theorem completeFrame_event_ne_text : (completeFrame c strict p).2 ≠ .text label value := by
  unfold completeFrame
  dsimp only
  split <;> nofun

/-- The end of a line completes a record exactly as R178 says. -/
theorem parseEol_event_text (h : (parseEol c strict p).2 = .text label value) :
    p.ps = .readingValue ∧ p.lbuf ≠ [] ∧ label = p.lbuf ∧ value = p.vbuf := by
  unfold parseEol at h
  cases hps : p.ps with
  | idle | readingLabel | sawTab => rw [hps] at h; cases h
  | readingValue =>
    rw [hps] at h
    dsimp only at h
    split_ifs at h with hl
    · cases h
    · cases h
      exact ⟨rfl, hl, rfl, rfl⟩
  | readingHexDigits =>
    rw [hps] at h
    dsimp only at h
    split_ifs at h
    · cases h
    · exact absurd h completeFrame_event_ne_text

theorem eq_cr_of_class : ∀ b : Byte, classOf b = .cr → b = 0x0D := by decide

theorem eq_lf_of_class : ∀ b : Byte, classOf b = .lf → b = 0x0A := by decide

/-- A TextField comes only from CR or LF after a label and a value (41_record_parser.md R190). -/
theorem parserStep_event_text (h : (parserStep c strict p b).2 = .text label value) :
    (b = 0x0D ∨ b = 0x0A) ∧ p.ps = .readingValue ∧ p.lbuf ≠ [] ∧ label = p.lbuf ∧ value = p.vbuf := by
  unfold parserStep at h
  split at h
  · cases h
  · rw [parseTab_event] at h; cases h
  · exact ⟨.inl (eq_cr_of_class b ‹_›), parseEol_event_text h⟩
  · exact ⟨.inr (eq_lf_of_class b ‹_›), parseEol_event_text h⟩
  · exact absurd h parseLabelClass_event_ne_text
  · exact absurd h parseLabelClass_event_ne_text
  · exact absurd h parseOtherClass_event_ne_text

theorem Parser.Shaped.vbuf_ne_nil (h : p.Shaped) (hps : p.ps = .readingValue) : p.vbuf ≠ [] := by
  rw [Parser.Shaped, hps] at h
  exact h.1

end

/-- Settles O33: the one TextField a step can append is the parser's own. -/
theorem textFieldsAreNonEmpty : Obligations.TextFieldsAreNonEmpty := by
  intro b s t new label value hinv hexec hevt hmem
  obtain ⟨first, err, hfirst, hall⟩ := State.receive_outputs s.cfg b (parserStep s.cfg s.hexStrict s.parser b)
  obtain ⟨second, sent, hfollows⟩ := hall s rfl
  have ht : s.receive b (parserStep s.cfg s.hexStrict s.parser b) = t := Host.Outcome.next.inj hexec
  have hnew : first ++ second = new := by
    have happended := hfollows.evt_eq
    rw [ht, hevt, State.evt_answered] at happended
    exact (List.append_cancel_left happended).symm
  have htext : Event.textField label value ∈ first :=
    (List.mem_append.mp (hnew ▸ hmem)).resolve_right (hfollows.second_events.textField_notMem label value)
  obtain ⟨hb, hps, hlabel, rfl, rfl⟩ := parserStep_event_text (hfirst.of_textField label value htext)
  exact ⟨hlabel, hinv.parser_shaped.vbuf_ne_nil hps, hps, rfl, rfl, hb⟩

/-! ### HEX_STRICT does not matter -/

theorem oddDigits_subset {policy : OddDigitPolicy} {h ds : Bytes} (hd : oddDigits policy h = some ds) : ds ⊆ h := by
  rcases oddDigits_eq_some_iff.mp hd with ⟨-, rfl⟩ | ⟨-, -, rfl⟩
  · exact List.Subset.refl _
  · exact List.dropLast_subset h

/-- Hex digits decode alike in both modes (40_frame_codec.md R146). -/
theorem hexDecode_of_ishex (policy : OddDigitPolicy) (strict strict' : Bool) {h : Bytes}
    (hh : ∀ b ∈ h, ishex b = true) : hexDecode policy strict h = hexDecode policy strict' h := by
  unfold hexDecode
  cases hodd : oddDigits policy h with
  | none => rfl
  | some ds =>
    have hall : ds.all ishex = true := List.all_eq_true.mpr fun b hb => hh b (oddDigits_subset hodd hb)
    simp only [hall, Bool.not_true, Bool.and_false]

theorem parseEol_strict_irrelevant (c : Cfg) (strict strict' : Bool) {p : Parser} (hh : ∀ b ∈ p.hbuf, ishex b = true) :
    parseEol c strict p = parseEol c strict' p := by
  unfold parseEol completeFrame
  rw [hexDecode_of_ishex c.oddDigitPolicy strict strict' hh]

/-- The parser's answer does not depend on HEX_STRICT (45_tx_and_control.md R296). -/
theorem parserStep_strict_irrelevant (c : Cfg) (strict strict' : Bool) {p : Parser}
    (hh : ∀ b ∈ p.hbuf, ishex b = true) (b : Byte) : parserStep c strict p b = parserStep c strict' p b := by
  unfold parserStep
  rw [parseEol_strict_irrelevant c strict strict' hh]

/-! ### Runs that look alike -/

/-- What the parser reads of a state that keeps the invariant: its configuration, ECHO_EN and its parser. -/
structure State.ParsesAs (s : State) (c : Cfg) (en : Bool) (p : Parser) : Prop where
  inv : s.Inv
  cfg_eq : s.cfg = c
  echoEn_eq : s.echoEn = en
  parser_eq : s.parser = p

/-- From every state with this configuration, ECHO_EN and parser, a run of received bytes leaves the parser `q`, echoes
`echoed` and appends `events`, cache changes aside. -/
def RunsAlike (c : Cfg) (en : Bool) (p : Parser) (bs : Bytes) (q : Parser) (echoed : Bytes)
    (events : List Event) : Prop :=
  ∀ s : State, s.ParsesAs c en p → ∃ t, execAll (rx bs) s = .next t ∧ t.ParsesAs c en q ∧
    t.echo = s.echo ++ echoed ∧ t.evtBut = s.evtBut ++ events

section
variable {c : Cfg} {en : Bool} {p q r : Parser} {as bs : Bytes} {echoed echoed' : Bytes} {events events' : List Event}

theorem RunsAlike.nil (c : Cfg) (en : Bool) (p : Parser) : RunsAlike c en p [] p [] [] := fun s hs =>
  ⟨s, rfl, hs, (List.append_nil _).symm, (List.append_nil _).symm⟩

theorem RunsAlike.append (hfirst : RunsAlike c en p as q echoed events)
    (hrest : RunsAlike c en q bs r echoed' events') :
    RunsAlike c en p (as ++ bs) r (echoed ++ echoed') (events ++ events') := by
  intro s hs
  obtain ⟨t, hst, ht, hechot, hevtt⟩ := hfirst s hs
  obtain ⟨u, htu, hu, hechou, hevtu⟩ := hrest t ht
  refine ⟨u, ?_, hu, ?_, ?_⟩
  · rw [rx_append, execAll_append hst, htu]
  · rw [hechou, hechot, List.append_assoc]
  · rw [hevtu, hevtt, List.append_assoc]

/-- The parser's answer to a byte, whatever HEX_STRICT is. -/
theorem State.ParsesAs.parserStep_eq {s : State} (h : s.ParsesAs c en p) (b : Byte) :
    parserStep s.cfg s.hexStrict s.parser b = parserStep c false p b := by
  rw [parserStep_strict_irrelevant s.cfg s.hexStrict false h.inv.parser_bounded.hex_bytes, h.cfg_eq, h.parser_eq]

theorem State.ParsesAs.receive {s : State} (h : s.ParsesAs c en p) (b : Byte) :
    (s.receive b (parserStep c false p b)).ParsesAs c en (parserStep c false p b).1 := by
  have hinv := h.inv.receive b (h.inv.parser_bounded.parserStep s.hexStrict b)
    (h.inv.parser_shaped.parserStep s.hexStrict b)
  rw [h.parserStep_eq] at hinv
  exact ⟨hinv, (s.receive_cfg _ _).trans h.cfg_eq, (s.receive_echoEn _ _).trans h.echoEn_eq, s.receive_parser _ _⟩

end

/-- One byte runs alike: the parser's answer, the echo and the events but for the cache changes are settled by what the
parser reads. -/
theorem exists_runsAlike_byte (c : Cfg) (en : Bool) (p : Parser) (b : Byte) :
    ∃ q echoed events, RunsAlike c en p [b] q echoed events := by
  obtain ⟨first, err, hfirst, hall⟩ := State.receive_outputs c b (parserStep c false p b)
  refine ⟨(parserStep c false p b).1, echoedBytes en p.ps (parserStep c false p b).1.ps b,
    first ++ err.toList.map .error, fun s hs => ?_⟩
  obtain ⟨second, sent, hfollows⟩ := hall s hs.cfg_eq
  refine ⟨s.receive b (parserStep c false p b), ?_, hs.receive b, ?_, ?_⟩
  · rw [rx_cons, rx_nil, execAll_single, exec_rxByte, hs.parserStep_eq]
  · rw [hfollows.echo_eq, State.echo_answered, hs.echoEn_eq, hs.parser_eq]
  · rw [hfollows.evtBut_eq hfirst, State.evtBut_answered]

/-- A run of bytes runs alike, byte by byte. -/
theorem exists_runsAlike (c : Cfg) (en : Bool) (bs : Bytes) (p : Parser) :
    ∃ q echoed events, RunsAlike c en p bs q echoed events := by
  induction bs generalizing p with
  | nil => exact ⟨p, [], [], .nil c en p⟩
  | cons b bs ih =>
    obtain ⟨q, echoed, events, hbyte⟩ := exists_runsAlike_byte c en p b
    obtain ⟨r, echoed', events', hrest⟩ := ih q
    exact ⟨r, _, _, hbyte.append hrest⟩

/-- Settles O36: both instances run as what the parser reads of them settles. -/
theorem parserIsDeterministic : Obligations.ParserIsDeterministic := by
  intro bs s t hs ht hparser hecho hcfg
  obtain ⟨q, echoed, events, hrun⟩ := exists_runsAlike s.cfg s.echoEn bs s.parser
  obtain ⟨s', hs', hsq, hechos, hevts⟩ := hrun s ⟨hs, rfl, rfl, rfl⟩
  obtain ⟨t', ht', htq, hechot, hevtt⟩ := hrun t ⟨ht, hcfg.symm, hecho.symm, hparser.symm⟩
  exact ⟨s', t', echoed, events, hs', ht', hsq.parser_eq.trans htq.parser_eq.symm, hechos, hechot, hevts, hevtt⟩

end Sys2Proof.Machine
end

section
/-! SUPPORT. The frame rows as instructions (spec 42_frame_dispatch.md R210-R216): the header bytes of a frame, the row
of a descriptor found by its id, and what each row does with its frame. -/

namespace Sys2Proof.Machine

/-! ### The header of a frame -/

/-- The wire bytes of an id that two bytes spell are these two bytes (20_memory.md R72). -/
theorem idBytes_ofNat (lo hi : Byte) : idBytes (BitVec.ofNat 16 (lo.toNat + 256 * hi.toNat)) = [lo, hi] := by
  have hlo : (BitVec.ofNat 16 (lo.toNat + 256 * hi.toNat)).setWidth 8 = lo := by
    apply BitVec.eq_of_toNat_eq
    rw [BitVec.toNat_setWidth, BitVec.toNat_ofNat]
    omega
  have hhi : (BitVec.ofNat 16 (lo.toNat + 256 * hi.toNat)).extractLsb' 8 8 = hi := by
    apply BitVec.eq_of_toNat_eq
    rw [BitVec.extractLsb'_toNat, BitVec.toNat_ofNat, Nat.shiftRight_eq_div_pow]
    omega
  rw [idBytes, hlo, hhi]

/-- The response skeleton repeats the id bytes as they came (42_frame_dispatch.md R211, R212). -/
theorem idBytes_frameId_cons (cmd : Byte) {rest : Bytes} (h : 2 ≤ rest.length) :
    idBytes (frameId (cmd :: rest)) = [rest.getD 0 0, rest.getD 1 0] := by
  rw [frameId, memRead_two (by rw [List.length_cons]; omega)]
  exact idBytes_ofNat (rest.getD 0 0) (rest.getD 1 0)

theorem frameFlags?_cons (cmd : Byte) (rest : Bytes) :
    frameFlags? (cmd :: rest) = if 3 ≤ rest.length then some (rest.getD 2 0) else none := by
  rw [frameFlags?, List.getElem?_cons_succ]
  split_ifs with h
  · rw [List.getD_eq_getElem _ _ h, List.getElem?_eq_getElem h]
  · exact List.getElem?_eq_none (by omega)

/-! ### Descriptors -/

/-- In a table with unique ids every descriptor is the one found for its id (43_register_decode.md R233). -/
theorem regFind_of_mem {t : List Descriptor} {x : Descriptor} (hids : Config.idsUnique t = true) (hx : x ∈ t) :
    regFind x.id t = some x := by
  have hnodup : (t.map (·.id)).Nodup := of_decide_eq_true hids
  clear hids
  induction t with
  | nil => exact absurd hx List.not_mem_nil
  | cons y ys ih =>
    rw [List.map_cons, List.nodup_cons] at hnodup
    obtain ⟨hnew, hrest⟩ := hnodup
    rcases List.mem_cons.mp hx with rfl | hmem
    · exact if_pos rfl
    · have hne : y.id ≠ x.id := fun h => hnew (h ▸ List.mem_map_of_mem hmem)
      rw [regFind, if_neg hne, ih hmem hrest]

/-- The row of a descriptor is its decode strategy and what the strategy's answer does (43_register_decode.md R231). -/
theorem exec_descriptorInstr (x : Descriptor) (d : Bytes) (s : State) :
    exec (descriptorInstr x d) s = .next (s.applyDecoded x.id x.body.scale d (decodeValue x.body d)) := by
  obtain ⟨id, w, sc, kind⟩ := x
  cases kind with
  | scalarNumeric => rfl
  | bitFlags => rfl
  | enum m => rfl
  | compositeRecord fs => rfl
  | rawString => rfl

/-- A long enough frame with the id of a descriptor of the table is decoded by it (43_register_decode.md R231, R235). -/
theorem State.regDecode_of_mem {s : State} {d : Bytes} {x : Descriptor} (hids : Config.idsUnique s.cfg.regTable = true)
    (hx : x ∈ s.cfg.regTable) (hlen : 5 ≤ d.length) (fl : Byte) :
    s.regDecode d x.id fl = s.applyDecoded x.id x.body.scale d (decodeValue x.body d) := by
  rw [State.regDecode, if_neg (by omega), regFind_of_mem hids hx]

/-! ### The rows -/

section
variable (s : State) (rest raw : Bytes)

/-- A command without a header reports its Frame event and nothing else (42_frame_dispatch.md R213). -/
theorem State.dispatchNone_cons (cmd : Byte) :
    s.dispatchNone (cmd :: rest) raw = s.emit (.frame ⟨cmd :: rest, none, none, [cmd], raw⟩) := rfl

/-- PING_RESPONSE, with its header spelled out (42_frame_dispatch.md R212). -/
theorem State.dispatchPing_cons (cmd : Byte) :
    s.dispatchPing (cmd :: rest) raw =
      if rest.length < 2 then s.raise (.payloadTooShort cmd (rest.length + 1))
      else s.emit (.frame
        { d := cmd :: rest
          id := some (BitVec.ofNat 16 (memRead (cmd :: rest) 1 2))
          flags := if 3 ≤ rest.length then some (rest.getD 2 0) else none
          resp := [cmd, rest.getD 0 0, rest.getD 1 0]
          raw := raw }) := by
  rw [State.dispatchPing, List.length_cons]
  by_cases hshort : rest.length < 2
  · rw [if_pos hshort, if_pos (by omega)]
    rfl
  · rw [if_neg hshort, if_neg (by omega), frameFlags?_cons, idBytes_frameId_cons cmd (by omega)]
    rfl

theorem mem_registerRows_iff {r : Byte × Byte × (Bytes → Bytes → Instr)} :
    r ∈ registerRows ↔ r = (0x07, 0x07, .get) ∨ r = (0x08, 0x08, .set) ∨ r = (0x0A, 0x01, .async) := by
  simp only [registerRows, List.mem_cons, List.not_mem_nil, or_false]

/-- GET, SET and ASYNC are the register dispatch of their frame (42_frame_dispatch.md R211). -/
theorem exec_of_mem_registerRows {r : Byte × Byte × (Bytes → Bytes → Instr)} (hr : r ∈ registerRows) :
    exec (r.2.2 rest raw) s = .next (s.dispatchReg (r.1 :: rest) raw) := by
  rcases mem_registerRows_iff.mp hr with rfl | rfl | rfl <;> rfl

/-- DONE answers ASYNC, and GET and SET are answered with their own command (42_frame_dispatch.md R215). -/
theorem respCmd_of_mem_registerRows {r : Byte × Byte × (Bytes → Bytes → Instr)} (hr : r ∈ registerRows) :
    respCmd r.1 = r.2.1 := by
  rcases mem_registerRows_iff.mp hr with rfl | rfl | rfl <;> rfl

/-- A register frame with a whole header is a Frame event, then the register decode (42_frame_dispatch.md R211). -/
theorem State.dispatchReg_cons (cmd : Byte) (h : 3 ≤ rest.length) :
    s.dispatchReg (cmd :: rest) raw =
      (s.emit (registerFrame cmd (respCmd cmd) rest raw)).regDecode (cmd :: rest) (frameId (cmd :: rest))
        (rest.getD 2 0) := by
  rw [State.dispatchReg, if_neg (by rw [List.length_cons]; omega), idBytes_frameId_cons cmd (by omega)]
  rfl

end

/-- Settles O39, row by row. -/
theorem headerlessCommandsReport : Obligations.HeaderlessCommandsReport := by
  intro rest raw c s r hr
  have hdispatch : exec r.2 s = .next (s.dispatchNone (r.1 :: rest) raw) := by
    simp only [List.mem_cons, List.not_mem_nil, or_false] at hr
    rcases hr with rfl | rfl | rfl | rfl | rfl <;> rfl
  rw [hdispatch, State.dispatchNone_cons, State.emit_eq]

/-- Settles O40. -/
theorem pingResponseReports : Obligations.PingResponseReports :=
  fun rest raw s => congrArg Host.Outcome.next (s.dispatchPing_cons rest raw 0x05)

/-- Settles O42: the lookup finds the descriptor, and both the frame row and the descriptor's row apply its answer. -/
theorem registerFramesDecode : Obligations.RegisterFramesDecode := by
  intro rest raw s x r hr hlen hids hx hid
  rw [← State.emit_eq]
  have hdecode : s.dispatchReg (r.1 :: rest) raw =
      (s.emit (registerFrame r.1 r.2.1 rest raw)).applyDecoded x.id x.body.scale (r.1 :: rest)
        (decodeValue x.body (r.1 :: rest)) := by
    rw [s.dispatchReg_cons rest raw r.1 (by omega), respCmd_of_mem_registerRows hr, frameId, ← hid]
    exact State.regDecode_of_mem (s := s.emit _) hids hx (by rw [List.length_cons]; omega) _
  have hexec := exec_of_mem_registerRows s rest raw hr
  rw [hdecode] at hexec
  refine ⟨by rw [hexec, exec_descriptorInstr], fun v hv => ?_⟩
  rw [hexec, hv]
  rfl

end Sys2Proof.Machine
end

section
/-! SUPPORT. Frames the register decode rejects (spec 42_frame_dispatch.md R216, 43_register_decode.md R232-R234): too
short for the header, too short for a value, and an id that is not in the table. -/

namespace Sys2Proof.Machine

/-- An event, then an error, as two appends to the merged trace. -/
theorem State.raise_emit_eq (s : State) (e : Event) (err : BlockError) :
    (s.emit e).raise err = { s with trace := s.trace ++ [.evt e, .evt (.error err)] } := by
  rw [State.raise, State.emit_eq, State.emit_eq, List.append_assoc, List.singleton_append]

theorem reasons_eq_extractLsb' (fl : Byte) : reasons fl = fl.extractLsb' 0 3 :=
  BitVec.setWidth_eq_extractLsb' (by decide)

theorem regFind_eq_none {id : RegId} {t : List Descriptor} (h : ∀ x ∈ t, x.id ≠ id) : regFind id t = none := by
  induction t with
  | nil => rfl
  | cons x xs ih =>
    obtain ⟨hx, hxs⟩ := List.forall_mem_cons.mp h
    rw [regFind, if_neg hx, ih hxs]

/-- Below five bytes no table is looked at (43_register_decode.md R232). -/
theorem State.regDecode_of_short {s : State} {d : Bytes} (hlen : d.length < 5) (id : RegId) (fl : Byte) :
    s.regDecode d id fl = s.raise (.payloadTooShort (frameCmd d) d.length) := if_pos hlen

/-- An id that is not in the table is reported with its flag bits (43_register_decode.md R233, R234). -/
theorem State.regDecode_of_unknown {s : State} {d : Bytes} {id : RegId} (hlen : 5 ≤ d.length)
    (hunknown : ∀ x ∈ s.cfg.regTable, x.id ≠ id) (fl : Byte) :
    s.regDecode d id fl = s.raise (.unknownRegister id (reasons fl)) := by
  rw [State.regDecode, if_neg (by omega), regFind_eq_none hunknown]

/-- A register frame without a whole header is rejected before its Frame event (42_frame_dispatch.md R216). -/
theorem State.dispatchReg_cons_of_short (s : State) {rest : Bytes} (h : rest.length < 3) (raw : Bytes) (cmd : Byte) :
    s.dispatchReg (cmd :: rest) raw = s.raise (.payloadTooShort cmd (rest.length + 1)) :=
  if_pos (Nat.succ_lt_succ h)

/-- Settles O41: the header's length, the value's length and the lookup, in the order in which they are tested. -/
theorem registerFramesRejected : Obligations.RegisterFramesRejected := by
  intro rest raw s r hr
  rw [exec_of_mem_registerRows s rest raw hr]
  have hframe (h : 3 ≤ rest.length) : s.dispatchReg (r.1 :: rest) raw =
      (s.emit (registerFrame r.1 r.2.1 rest raw)).regDecode (r.1 :: rest) (frameId (r.1 :: rest)) (rest.getD 2 0) := by
    rw [s.dispatchReg_cons rest raw r.1 h, respCmd_of_mem_registerRows hr]
  refine ⟨fun hheader => ?_, fun hvalue => ?_, fun hlen hunknown => ?_⟩
  · rw [s.dispatchReg_cons_of_short hheader, State.raise, State.emit_eq]
  · rw [hframe hvalue.ge, State.regDecode_of_short (by rw [List.length_cons]; omega), State.raise_emit_eq,
      List.length_cons, hvalue]
    rfl
  · rw [hframe (by omega), frameId,
      State.regDecode_of_unknown (s := s.emit _) (by rw [List.length_cons]; omega) hunknown, State.raise_emit_eq,
      reasons_eq_extractLsb']

end Sys2Proof.Machine
end

section
/-! SUPPORT. The descriptor rows as instructions (spec 43_register_decode.md R236-R241): what each strategy answers for a
buffer, and what its row does with the answer. -/

namespace Sys2Proof.Machine

/-! ### A strategy's answer -/

/-- Too few bytes for a strategy are PayloadTooShort and nothing else (43_register_decode.md R231). -/
theorem exec_descriptorInstr_of_none {x : Descriptor} {d : Bytes} (h : decodeValue x.body d = none) (s : State) :
    exec (descriptorInstr x d) s = .next
      { s with trace := s.trace ++ [.evt (.error (.payloadTooShort (d.headD 0) d.length))] } := by
  rw [exec_descriptorInstr, h]
  rfl

/-- A decoded value is set in the cache with the descriptor's scale (43_register_decode.md R231, R242). -/
theorem exec_descriptorInstr_of_some {x : Descriptor} {d : Bytes} {v : RegValue} (h : decodeValue x.body d = some v)
    (s : State) : exec (descriptorInstr x d) s = .next (s.setRegister x.id x.body.scale v) := by
  rw [exec_descriptorInstr, h]
  rfl

/-! ### Strategies on one raw value -/

/-- The row of a strategy that turns one raw value of the descriptor's width into what is stored
(43_register_decode.md R236-R238). -/
theorem exec_descriptorInstr_of_rawRead {x : Descriptor} {d : Bytes} {f : Nat → RegValue}
    (h : decodeValue x.body d = (rawRead d x.body.width).map f) (s : State) :
    exec (descriptorInstr x d) s = .next
      (if d.length < 4 + x.body.width.bytes then
        { s with trace := s.trace ++ [.evt (.error (.payloadTooShort (d.headD 0) d.length))] }
       else s.setRegister x.id x.body.scale (f (memRead d 4 x.body.width.bytes))) := by
  rw [rawRead] at h
  split_ifs at h ⊢ with hlen
  · exact exec_descriptorInstr_of_none h s
  · exact exec_descriptorInstr_of_some h s

theorem decScalar_eq_map (d : Bytes) (w : Width) : decScalar d w = (rawRead d w).map fun raw => .number raw := by
  unfold decScalar
  cases rawRead d w <;> rfl

/-- The set of the bit positions 0..30 of a raw value (43_register_decode.md R237). -/
def flagsValue (raw : Nat) : RegValue := .str (.flagSet (BitVec.ofNat 31 raw))

theorem decFlags_eq_map (d : Bytes) (w : Width) : decFlags d w = (rawRead d w).map flagsValue := by
  unfold decFlags
  cases rawRead d w <;> rfl

/-- The label of a raw value, or the number where it is not mapped (43_register_decode.md R238). -/
def enumValue (m : List EnumEntry) (raw : Nat) : RegValue :=
  (enumFind raw m).elim (.number raw) fun label => .str (.enumLabel label)

theorem decEnum_eq_map (d : Bytes) (w : Width) (m : List EnumEntry) :
    decEnum d w m = (rawRead d w).map (enumValue m) := by
  unfold decEnum
  cases rawRead d w with
  | none => rfl
  | some raw =>
    dsimp only [Option.map_some, enumValue]
    cases enumFind raw m <;> rfl

/-- Entries for other raw values are passed over (log entry 5). -/
theorem enumFind_append {raw : Nat} {pre : List EnumEntry} (h : ∀ x ∈ pre, x.raw.toNat ≠ raw) (m : List EnumEntry) :
    enumFind raw (pre ++ m) = enumFind raw m := by
  induction pre with
  | nil => rfl
  | cons x xs ih =>
    obtain ⟨hx, hxs⟩ := List.forall_mem_cons.mp h
    rw [List.cons_append, enumFind, if_neg hx, ih hxs]

theorem enumValue_of_first {raw : Nat} {pre : List EnumEntry} {e : EnumEntry} (hpre : ∀ x ∈ pre, x.raw.toNat ≠ raw)
    (he : e.raw.toNat = raw) (post : List EnumEntry) :
    enumValue (pre ++ e :: post) raw = .str (.enumLabel e.label) := by
  rw [enumValue, enumFind_append hpre, enumFind, if_pos he, Option.elim_some]

theorem enumValue_of_unmapped {raw : Nat} {m : List EnumEntry} (h : ∀ x ∈ m, x.raw.toNat ≠ raw) :
    enumValue m raw = .number raw := by
  rw [enumValue, ← List.append_nil m, enumFind_append h, enumFind, Option.elim_none]

/-- Settles O44. -/
theorem scalarNumericStoresRaw : Obligations.ScalarNumericStoresRaw := fun id w sc d s =>
  exec_descriptorInstr_of_rawRead (x := ⟨id, w, sc, .scalarNumeric⟩) (decScalar_eq_map d w) s

/-- Settles O45: a number cut to 31 bits is its remainder by 2^31, which is its masked value. -/
theorem bitFlagsStoresTheSet : Obligations.BitFlagsStoresTheSet := by
  intro id w sc d s
  have hexec := exec_descriptorInstr_of_rawRead (x := ⟨id, w, sc, .bitFlags⟩) (decFlags_eq_map d w) s
  refine ⟨fun hshort => hexec.trans (by rw [if_pos hshort]), fun hlen =>
    ⟨BitVec.ofNat 31 (memRead d 4 w.bytes), hexec.trans (by rw [if_neg hlen.not_gt]; rfl), ?_, fun n hn => ?_⟩⟩
  · rw [BitVec.toNat_ofNat]
    exact (Nat.and_two_pow_sub_one_eq_mod _ 31).symm
  · rw [BitVec.getLsbD_ofNat, decide_eq_true hn, Bool.true_and]

/-- Settles O46: the entries before the first match are passed over, and so are all where none matches. -/
theorem enumStoresTheLabel : Obligations.EnumStoresTheLabel := by
  intro id w sc m d s
  have hexec := exec_descriptorInstr_of_rawRead (x := ⟨id, w, sc, .enum m⟩) (decEnum_eq_map d w m) s
  refine ⟨fun hshort => hexec.trans (by rw [if_pos hshort]), fun hlen => ?_⟩
  rw [if_neg hlen.not_gt] at hexec
  refine ⟨fun pre post e hm he hpre => hexec.trans ?_, fun hm => hexec.trans ?_⟩
  · rw [hm, enumValue_of_first hpre he]
  · rw [enumValue_of_unmapped hm]

/-! ### Composite records -/

/-- The fields of a record of the given widths, each read where the one before it ended (43_register_decode.md R239). -/
def fieldsAt (d : Bytes) : Nat → List Width → List (Width × Nat)
  | _, [] => []
  | cur, w :: ws => (w, memRead d cur w.bytes) :: fieldsAt d (cur + w.bytes) ws

/-- All fields are read, or none: what counts is the bytes of all of them together. -/
theorem decFields_eq {d : Bytes} {cur : Nat} (hcur : cur ≤ d.length) (ws : List Width) :
    decFields d cur ws =
      if d.length < cur + (ws.map Width.bytes).sum then none else some (fieldsAt d cur ws) := by
  induction ws generalizing cur with
  | nil => exact (if_neg hcur.not_gt).symm
  | cons w ws ih =>
    rw [decFields, List.map_cons, List.sum_cons, ← Nat.add_assoc]
    by_cases hfirst : d.length < cur + w.bytes
    · rw [if_pos hfirst, if_pos (by omega)]
    · rw [if_neg hfirst, ih (by omega)]
      split_ifs <;> rfl

/-- The version byte needs a fifth byte; from there on `decFields_eq` counts the others (43_register_decode.md R239). -/
theorem decComposite_eq (d : Bytes) (ws : List Width) :
    decComposite d ws =
      if d.length < 5 + (ws.map Width.bytes).sum then none else some (.composite (fieldsAt d 4 (.u8 :: ws))) := by
  rw [decComposite, decFields, Width.bytes]
  by_cases hversion : d.length < 4 + 1
  · rw [if_pos hversion, if_pos (by omega)]
  · rw [if_neg hversion, decFields_eq (by omega)]
    split_ifs <;> rfl

theorem map_fst_fieldsAt (d : Bytes) (cur : Nat) (ws : List Width) : (fieldsAt d cur ws).map Prod.fst = ws := by
  induction ws generalizing cur with
  | nil => rfl
  | cons w ws ih => rw [fieldsAt, List.map_cons, ih]

/-- There are no gaps: a field begins where the widths of those before it end. -/
theorem snd_of_fieldsAt_eq_append {d : Bytes} {cur : Nat} {ws : List Width} {pre post : List (Width × Nat)}
    {f : Width × Nat} (h : fieldsAt d cur ws = pre ++ f :: post) :
    f.2 = memRead d (cur + (pre.map fun g => g.1.bytes).sum) f.1.bytes := by
  induction ws generalizing cur pre with
  | nil => exact absurd h.symm (List.append_ne_nil_of_right_ne_nil _ (List.cons_ne_nil _ _))
  | cons w ws ih =>
    cases pre with
    | nil =>
      obtain ⟨rfl, -⟩ := List.cons.inj h
      rfl
    | cons g pre =>
      obtain ⟨rfl, hrest⟩ := List.cons.inj h
      rw [ih hrest, List.map_cons, List.sum_cons, Nat.add_assoc]

/-- Settles O47. -/
theorem compositeRecordStoresFields : Obligations.CompositeRecordStoresFields := by
  intro id w sc ws d s
  have hdecode : decodeValue ⟨w, sc, .compositeRecord ws⟩ d = _ := decComposite_eq d ws
  refine ⟨fun hshort => ?_, fun hlen => ⟨fieldsAt d 4 (.u8 :: ws), ?_, map_fst_fieldsAt d 4 _,
    fun pre post f hf => snd_of_fieldsAt_eq_append hf⟩⟩
  · rw [if_pos hshort] at hdecode
    exact exec_descriptorInstr_of_none (x := ⟨id, w, sc, .compositeRecord ws⟩) hdecode s
  · rw [if_neg hlen.not_gt] at hdecode
    exact exec_descriptorInstr_of_some (x := ⟨id, w, sc, .compositeRecord ws⟩) hdecode s

/-! ### Raw strings -/

theorem zero_notMem_takeWhile_ne_zero (bs : Bytes) : 0 ∉ bs.takeWhile (· ≠ 0) := fun h => by
  simpa using List.mem_takeWhile_imp h

/-- What a byte string has left after its bytes that are not NUL is nothing, or begins with a NUL. -/
theorem dropWhile_ne_zero_cases (bs : Bytes) :
    bs.dropWhile (· ≠ 0) = [] ∨ ∃ more, bs.dropWhile (· ≠ 0) = 0 :: more := by
  induction bs with
  | nil => exact .inl rfl
  | cons b bs ih =>
    by_cases hb : b = 0
    · exact .inr ⟨bs, by rw [hb]; rfl⟩
    · rwa [List.dropWhile_cons_of_pos (by simpa using hb)]

/-- Settles O48: the text stored is the value field while it is not NUL. -/
theorem rawStringStopsAtNul : Obligations.RawStringStopsAtNul := fun id w sc d s =>
  ⟨(d.drop 4).takeWhile (· ≠ 0), (d.drop 4).dropWhile (· ≠ 0),
    exec_descriptorInstr_of_some (x := ⟨id, w, sc, .rawString⟩) rfl s, List.takeWhile_append_dropWhile.symm,
    zero_notMem_takeWhile_ne_zero _, dropWhile_ne_zero_cases _⟩

/-! ### The table at reset -/

/-- Whatever the open rest of the table is, its ids are unique (30_encoding.md R111, log entry 5). -/
theorem idsUnique_regTable : Config.idsUnique Config.regTable = true := by
  rw [Config.regTable]
  split_ifs with hrest
  · exact hrest
  · decide

theorem mem_regTable_of_mem_known {x : Descriptor} (hx : x ∈ Config.knownRegTable) : x ∈ Config.regTable := by
  rw [Config.regTable]
  split_ifs
  · exact List.mem_append_left _ hx
  · exact hx

/-- The descriptors the spec gives are found by their ids at reset (43_register_decode.md R230, R233). -/
theorem regFind_reset_of_mem_known {x : Descriptor} (hx : x ∈ Config.knownRegTable) :
    regFind x.id State.reset.cfg.regTable = some x :=
  regFind_of_mem idsUnique_regTable (mem_regTable_of_mem_known hx)

/-- The cycle history is the header, the version byte and 46 bytes of fields (43_register_decode.md R241). -/
theorem decodeValue_desc1070_isSome_iff (d : Bytes) :
    (decodeValue Config.desc1070.body d).isSome = true ↔ 51 ≤ d.length := by
  have hdecode : decodeValue Config.desc1070.body d = if d.length < 51 then none else some _ := decComposite_eq d _
  rw [hdecode]
  split_ifs with hshort
  · exact iff_of_false Bool.false_ne_true hshort.not_ge
  · exact iff_of_true rfl (not_lt.mp hshort)

/-- Settles O49. -/
theorem normativeRegisters : Obligations.NormativeRegisters :=
  ⟨regFind_reset_of_mem_known (x := Config.desc0104) (by simp [Config.knownRegTable]),
    regFind_reset_of_mem_known (x := Config.descEDD5) (by simp [Config.knownRegTable]),
    ⟨Config.desc0201, regFind_reset_of_mem_known (x := ⟨0x0201, Config.desc0201⟩) (by simp [Config.knownRegTable])⟩,
    ⟨Config.desc1070.body, regFind_reset_of_mem_known (x := Config.desc1070) (by simp [Config.knownRegTable]), rfl, rfl,
      decodeValue_desc1070_isSome_iff⟩⟩

end Sys2Proof.Machine
end

section
/-! SUPPORT. The register cache (spec 44_register_cache.md R260-R263): when a set changes an entry, and that a set is its
own repetition. -/

namespace Sys2Proof.Machine

/-- A set keeps exactly the entry it would write: valid, with the same scale and value (44_register_cache.md R261). -/
theorem setChanges_eq_false_iff {old : Option CacheEntry} {sc : Scale} {v : RegValue} :
    setChanges old sc v = false ↔ old = some ⟨sc, v, true⟩ := by
  refine ⟨fun h => ?_, fun h => h ▸ setChanges_same sc v⟩
  cases old with
  | none => exact absurd h Bool.true_eq_false_eq_False
  | some e =>
    obtain ⟨scale, value, valid⟩ := e
    simp only [setChanges, Bool.or_eq_false_iff, Bool.not_eq_false', decide_eq_false_iff_not, not_not] at h
    obtain ⟨⟨rfl, rfl⟩, rfl⟩ := h
    rfl

theorem State.setRegister_of_found {s : State} {id : RegId} {sc : Scale} {v : RegValue}
    (h : cacheFind id s.cache = some ⟨sc, v, true⟩) : s.setRegister id sc v = s := by
  rw [State.setRegister, setChanges_eq_false_iff.mpr h]
  rfl

theorem State.setRegister_of_not_found {s : State} {id : RegId} {sc : Scale} {v : RegValue}
    (h : cacheFind id s.cache ≠ some ⟨sc, v, true⟩) : s.setRegister id sc v =
      { s with cache := cachePut id ⟨sc, v, true⟩ s.cache, trace := s.trace ++ [.evt (.cacheChange id sc v)] } := by
  rcases s.setRegister_cases id sc v with ⟨-, hset⟩ | ⟨hsame, -⟩
  · exact hset
  · exact absurd (setChanges_eq_false_iff.mp hsame) h

/-- After a set the entry is the one set, so the same set again does nothing (44_register_cache.md R263). -/
theorem State.setRegister_isFixedPt (s : State) (id : RegId) (sc : Scale) (v : RegValue) :
    Function.IsFixedPt (fun t : State => t.setRegister id sc v) (s.setRegister id sc v) :=
  State.setRegister_of_found (s.cacheFind_setRegister id sc v)

/-- Settles O50. -/
theorem setRegisterNotifiesOnChange : Obligations.SetRegisterNotifiesOnChange := fun id sc v s =>
  ⟨State.setRegister_of_found,
    fun hchange => ⟨_, State.setRegister_of_not_found hchange, cacheFind_put_same id _ s.cache,
      fun _ hj => cacheFind_put_other hj _ s.cache⟩,
    fun n => (Function.iterate_succ_apply _ n s).trans ((s.setRegister_isFixedPt id sc v).iterate n)⟩

end Sys2Proof.Machine
end

section
/-! SUPPORT. The text classifier and its numbers (spec 44_register_cache.md R270-R274): which strings are numbers and
which integers they denote, which entry a label has, and what the classifier does with its value. -/

namespace Sys2Proof.Machine

/-! ### The entry of a label -/

/-- Entries of other labels are passed over (log entry 5). -/
theorem textFind_append {label : Bytes} {pre : List TextEntry} (h : ∀ x ∈ pre, x.label ≠ label) (m : List TextEntry) :
    textFind label (pre ++ m) = textFind label m := by
  induction pre with
  | nil => rfl
  | cons x xs ih =>
    obtain ⟨hx, hxs⟩ := List.forall_mem_cons.mp h
    rw [List.cons_append, textFind, if_neg hx, ih hxs]

theorem textFind_of_first {label : Bytes} {pre : List TextEntry} {m : TextEntry} (hpre : ∀ x ∈ pre, x.label ≠ label)
    (hm : m.label = label) (post : List TextEntry) : textFind label (pre ++ m :: post) = some m := by
  rw [textFind_append hpre, textFind, if_pos hm]

theorem textFind_eq_none {label : Bytes} {t : List TextEntry} (h : ∀ x ∈ t, x.label ≠ label) :
    textFind label t = none := by
  rw [← List.append_nil t, textFind_append h, textFind]

/-! ### The classifier -/

/-- With an entry, what happens is up to the value: no value sets nothing (44_register_cache.md R270, R274). -/
theorem State.textClassify_of_textFind {s : State} {label : Bytes} {m : TextEntry}
    (h : textFind label s.cfg.textMap = some m) (value : Bytes) :
    s.textClassify label value = (textValue m.parse value).elim s (s.setRegister m.id m.scale) := by
  rw [State.textClassify, h]
  dsimp only
  cases textValue m.parse value <;> rfl

/-- Settles O51: the entries before the first match are passed over, and so are all where none matches. -/
theorem textClassifierSetsTheRegister : Obligations.TextClassifierSetsTheRegister := by
  intro label value s
  refine ⟨fun pre post m hmap hm hpre => ?_, fun hunmapped => ?_⟩
  · have hclassify : s.textClassify label value = (textValue m.parse value).elim s (s.setRegister m.id m.scale) :=
      State.textClassify_of_textFind (hmap ▸ textFind_of_first hpre hm post) value
    refine ⟨fun hdecimal => hclassify.trans ?_, fun htext => hclassify.trans ?_⟩
    · rw [hdecimal, textValue]
      cases parseDec value <;> rfl
    · rw [htext, textValue, Option.elim_some]
  · rw [State.textClassify, textFind_eq_none hunmapped]

/-! ### Numbers -/

theorem isDigit_iff {b : Byte} : isDigit b = true ↔ 0x30 ≤ b ∧ b ≤ 0x39 := by
  rw [isDigit, Bool.and_eq_true, decide_eq_true_iff, decide_eq_true_iff]
  rfl

theorem isDigit_chMinus : isDigit chMinus = false := by decide

/-- Reading from the most significant digit on is the positional value of the digits. -/
theorem digitsNat_eq_ofDigits (ds : Bytes) :
    digitsNat ds = Nat.ofDigits 10 (ds.map fun b => b.toNat - 48).reverse := by
  rw [digitsNat, Nat.ofDigits_eq_foldr, List.foldr_reverse, List.foldl_map]
  simp only [Nat.cast_id, Nat.add_comm]

theorem parseDigits_of_digits {ds : Bytes} (hne : ds ≠ []) (hdigits : ∀ b ∈ ds, 0x30 ≤ b ∧ b ≤ 0x39) :
    parseDigits ds = some (digitsNat ds) :=
  if_pos ⟨hne, List.all_eq_true.mpr fun b hb => isDigit_iff.mpr (hdigits b hb)⟩

theorem digits_of_parseDigits {ds : Bytes} (h : parseDigits ds ≠ none) :
    ds ≠ [] ∧ ∀ b ∈ ds, 0x30 ≤ b ∧ b ≤ 0x39 := by
  obtain ⟨hne, hall⟩ := (ite_ne_right_iff.mp h).1
  exact ⟨hne, fun b hb => isDigit_iff.mp (List.all_eq_true.mp hall b hb)⟩

theorem parseDec_minus (ds : Bytes) : parseDec (chMinus :: ds) = (parseDigits ds).map fun n : Nat => -(n : Int) := by
  rw [parseDec, if_pos rfl]
  cases parseDigits ds <;> rfl

theorem parseDec_of_ne_minus {b : Byte} (h : b ≠ chMinus) (bs : Bytes) :
    parseDec (b :: bs) = (parseDigits (b :: bs)).map fun n : Nat => (n : Int) := by
  rw [parseDec, if_neg h]
  cases parseDigits (b :: bs) <;> rfl

/-- A digit is no minus sign, so a digit string is read as it stands (44_register_cache.md R271). -/
theorem parseDec_of_digits {ds : Bytes} (hne : ds ≠ []) (hdigits : ∀ b ∈ ds, 0x30 ≤ b ∧ b ≤ 0x39) :
    parseDec ds = some (digitsNat ds : Int) := by
  cases ds with
  | nil => exact absurd rfl hne
  | cons b bs =>
    have hb : b ≠ chMinus := fun h => by
      have hdigit := isDigit_iff.mpr (hdigits b List.mem_cons_self)
      rw [h, isDigit_chMinus] at hdigit
      exact Bool.false_ne_true hdigit
    rw [parseDec_of_ne_minus hb, parseDigits_of_digits hne hdigits, Option.map_some]

/-- Settles O52. -/
theorem parseDecAcceptsIntegers : Obligations.ParseDecAcceptsIntegers := by
  refine ⟨fun ds hne hdigits => ?_, fun v hv => ?_⟩
  · rw [← digitsNat_eq_ofDigits]
    refine ⟨parseDec_of_digits hne hdigits, (parseDec_minus ds).trans ?_⟩
    rw [parseDigits_of_digits hne hdigits, Option.map_some]
  · cases v with
    | nil => exact absurd rfl hv
    | cons b bs =>
      by_cases hb : b = chMinus
      · rw [hb, parseDec_minus, Option.map_eq_none_iff.ne] at hv
        obtain ⟨hne, hdigits⟩ := digits_of_parseDigits hv
        exact ⟨bs, hne, hdigits, .inr (hb ▸ rfl)⟩
      · rw [parseDec_of_ne_minus hb, Option.map_eq_none_iff.ne] at hv
        obtain ⟨hne, hdigits⟩ := digits_of_parseDigits hv
        exact ⟨b :: bs, hne, hdigits, .inl rfl⟩

end Sys2Proof.Machine
end

section
/-! SUPPORT. ENQUEUE and the reserved op codes (spec 45_tx_and_control.md R291, R305). -/

namespace Sys2Proof.Machine

/-- Settles O17. -/
theorem enqueueAcceptsOrRefuses : Obligations.EnqueueAcceptsOrRefuses := exec_enqueue

theorem exec_reservedOp (op : BitVec 4) (s : State) :
    exec (.reservedOp op) s = .next (s.withResult (some .refused)) := rfl

/-- Settles O23. -/
theorem reservedOpIsRefused : Obligations.ReservedOpIsRefused := exec_reservedOp

end Sys2Proof.Machine
end

section
/-! SUPPORT. CACHE_READ and CACHE_INVALIDATE (spec 45_tx_and_control.md R297, R298): in an ordered cache the entry found
is the only one of its id, and an invalidated entry is one that every set changes. -/

namespace Sys2Proof.Machine

/-! ### The entry of an id -/

theorem mem_of_cacheFind {id : RegId} {e : CacheEntry} {c : Cache} (h : cacheFind id c = some e) : (id, e) ∈ c := by
  induction c with
  | nil => cases h
  | cons x c ih =>
    obtain ⟨k, x⟩ := x
    rw [cacheFind] at h
    split_ifs at h with hk
    · cases hk; cases h; exact List.mem_cons_self
    · exact List.mem_cons_of_mem _ (ih h)

/-- The lower bound of an ordered cache holds of all its ids (log entry 10). -/
theorem cacheAbove.lt_of_mem {lo : RegId} {c : Cache} (h : cacheAbove lo c) {p : RegId × CacheEntry} (hp : p ∈ c) :
    lo < p.1 := by
  induction c generalizing lo with
  | nil => cases hp
  | cons x c ih =>
    obtain ⟨hwf, hhead⟩ := h
    have hx : lo < x.1 := hhead x rfl
    rcases List.mem_cons.mp hp with rfl | hp
    · exact hx
    · exact BitVec.lt_trans hx (ih (cacheWf_cons.mp hwf) hp)

theorem cacheFind_of_mem {id : RegId} {e : CacheEntry} {c : Cache} (hwf : cacheWf c = true) (h : (id, e) ∈ c) :
    cacheFind id c = some e := by
  induction c with
  | nil => cases h
  | cons x c ih =>
    obtain ⟨k, x⟩ := x
    have habove : cacheAbove k c := cacheWf_cons.mp hwf
    rcases List.mem_cons.mp h with heq | hmem
    · cases heq; exact if_pos rfl
    · have hk : k ≠ id := fun hk => BitVec.lt_irrefl id (hk ▸ habove.lt_of_mem hmem)
      rw [cacheFind, if_neg hk, ih habove.1 hmem]

theorem exec_cacheRead (id : RegId) (s : State) :
    exec (.cacheRead id) s = .next (s.withResult (some (.entry (cacheFind id s.cache)))) := rfl

/-- Settles O18. -/
theorem cacheReadAnswersTheEntry : Obligations.CacheReadAnswersTheEntry := fun id s =>
  ⟨cacheFind id s.cache, exec_cacheRead id s, fun hwf _ => ⟨mem_of_cacheFind, cacheFind_of_mem hwf⟩⟩

/-! ### Clearing the valid bit -/

/-- Writing the same entry again changes nothing, in whatever order the ids stand. -/
theorem cachePut_cachePut (id : RegId) (e : CacheEntry) (c : Cache) :
    cachePut id e (cachePut id e c) = cachePut id e c := by
  induction c with
  | nil => simp [cachePut]
  | cons x c ih =>
    obtain ⟨k, x⟩ := x
    by_cases hk : id = k
    · simp [cachePut, hk]
    · by_cases hlt : id < k
      · simp [cachePut, hk, hlt]
      · simp [cachePut, hk, hlt, ih]

/-- An invalidation writes the cache and nothing else. -/
theorem State.with_cache_invalidate (s : State) (id : RegId) :
    { s with cache := (s.invalidate id).cache } = s.invalidate id := by
  rcases s.invalidate_cases id with ⟨-, h⟩ | ⟨e, -, h⟩ <;> rw [h]

theorem State.cacheFind_invalidate (s : State) (id : RegId) :
    cacheFind id (s.invalidate id).cache = (cacheFind id s.cache).map fun e => { e with valid := false } := by
  rcases s.invalidate_cases id with ⟨hfind, h⟩ | ⟨e, hfind, h⟩ <;> rw [h, hfind]
  · rfl
  · exact cacheFind_put_same id _ s.cache

theorem State.cacheFind_invalidate_other (s : State) {id j : RegId} (hj : j ≠ id) :
    cacheFind j (s.invalidate id).cache = cacheFind j s.cache := by
  rcases s.invalidate_cases id with ⟨-, h⟩ | ⟨e, -, h⟩ <;> rw [h]
  exact cacheFind_put_other hj _ s.cache

theorem State.invalidate_of_absent {s : State} {id : RegId} (h : cacheFind id s.cache = none) :
    s.invalidate id = s := by
  rw [State.invalidate, h]

theorem State.invalidate_of_found {s : State} {id : RegId} {e : CacheEntry} (h : cacheFind id s.cache = some e) :
    s.invalidate id = { s with cache := cachePut id { e with valid := false } s.cache } := by
  rw [State.invalidate, h]

/-- Invalidating twice is invalidating once (45_tx_and_control.md R298). -/
theorem State.invalidate_invalidate (s : State) (id : RegId) : (s.invalidate id).invalidate id = s.invalidate id := by
  rcases s.invalidate_cases id with ⟨-, h⟩ | ⟨e, -, h⟩ <;> rw [h]
  · exact h
  · rw [State.invalidate_of_found (cacheFind_put_same id _ s.cache)]
    exact congrArg (fun c : Cache => { s with cache := c }) (cachePut_cachePut id _ s.cache)

/-- After an invalidation the id is absent or its entry is not valid, so no set finds its own entry. -/
theorem State.cacheFind_invalidate_ne_valid (s : State) (id : RegId) (sc : Scale) (v : RegValue) :
    cacheFind id (s.invalidate id).cache ≠ some ⟨sc, v, true⟩ := by
  rw [State.cacheFind_invalidate]
  cases cacheFind id s.cache <;> simp

/-- The first set after an invalidation notifies, whatever it sets (45_tx_and_control.md R298). -/
theorem State.setRegister_invalidate_trace (s : State) (id : RegId) (sc : Scale) (v : RegValue) :
    ((s.invalidate id).setRegister id sc v).trace = s.trace ++ [.evt (.cacheChange id sc v)] := by
  rw [State.setRegister_of_not_found (s.cacheFind_invalidate_ne_valid id sc v), State.invalidate_trace]

theorem exec_cacheInvalidate (id : RegId) (s : State) :
    exec (.cacheInvalidate id) s = .next ((s.invalidate id).withResult (some .ok)) := rfl

/-- CACHE_INVALIDATE writes the cache and its result, nothing else. -/
theorem exec_cacheInvalidate_frame (id : RegId) (s : State) :
    exec (.cacheInvalidate id) s = .next { s with cache := (s.invalidate id).cache, result := some .ok } :=
  congrArg (fun t : State => (.next (t.withResult (some .ok)) : Result)) (s.with_cache_invalidate id).symm

/-- From the state an invalidation leaves, CACHE_INVALIDATE does what it did before (45_tx_and_control.md R298). -/
theorem exec_cacheInvalidate_invalidate (id : RegId) (s : State) :
    exec (.cacheInvalidate id) (s.invalidate id) = exec (.cacheInvalidate id) s := by
  rw [exec_cacheInvalidate, exec_cacheInvalidate, State.invalidate_invalidate]

/-- Settles O19: both after-states are read as the state the invalidation leaves. -/
theorem cacheInvalidateClearsValid : Obligations.CacheInvalidateClearsValid := by
  intro id s
  refine ⟨(s.invalidate id).cache, exec_cacheInvalidate_frame id s, s.cacheFind_invalidate id,
    fun _ => s.cacheFind_invalidate_other, fun habsent => by rw [State.invalidate_of_absent habsent], ?_,
    fun sc v => ?_⟩
  · rw [State.with_cache_invalidate, exec_cacheInvalidate_invalidate, exec_cacheInvalidate_frame]
  · rw [State.with_cache_invalidate]
    exact s.setRegister_invalidate_trace id sc v

end Sys2Proof.Machine
end

section
/-! SUPPORT. The CSR space (spec 45_tx_and_control.md R295, R296, R300-R303; 10_state.md R42, R43): what each address
reads, what a write changes, and what is read back. -/

namespace Sys2Proof.Machine

section
variable (s : State)

theorem State.csr_ctrl : s.csr 0x00 = ctrlWord s.echoEn s.hexStrict := rfl
theorem State.csr_bthr : s.csr 0x04 = bthrWord s.bthr := rfl
theorem State.csr_pstat : s.csr 0x08 = pstat s.parser := rfl
theorem State.csr_qstat : s.csr 0x0C = qstat s.bcnt s.txq := rfl
theorem State.csr_cstat : s.csr 0x10 = cstat s.cache := rfl

/-- A reserved address reads 0 (45_tx_and_control.md R300). -/
theorem State.csr_reserved {a : Byte} (h0 : a ≠ 0x00) (h4 : a ≠ 0x04) (h8 : a ≠ 0x08) (hC : a ≠ 0x0C)
    (h10 : a ≠ 0x10) : s.csr a = 0 := by
  rw [State.csr, if_neg h0, if_neg h4, if_neg h8, if_neg hC, if_neg h10]

theorem exec_csrRead (a : Byte) : exec (.csrRead a) s = .next (s.withResult (some (.word (s.csr a)))) := rfl

theorem exec_csrWrite (a : Byte) (v : Word) :
    exec (.csrWrite a v) s = .next ((s.csrPut a v).withResult (some .ok)) := rfl

end

/-- PSTAT where every length fits its field (45_tx_and_control.md R301). -/
theorem pstat_toNat_of_fits {p : Parser} (hl : p.lbuf.length ≤ 9) (hv : p.vbuf.length ≤ 33)
    (hh : p.hbuf.length ≤ 2047) :
    (pstat p).toNat =
      (psCode p.ps).toNat + 16 * p.lbuf.length + 256 * p.vbuf.length + 65536 * p.hbuf.length := by
  rw [pstat_toNat, hlenField_toNat hh, Nat.mod_eq_of_lt (by omega), Nat.mod_eq_of_lt (by omega)]

/-- Settles O20: address by address, the word of the map as a number. -/
theorem csrReadAnswersTheMap : Obligations.CsrReadAnswersTheMap := by
  refine ⟨rfl, rfl, rfl, rfl, rfl, fun a s => ⟨s.csr a, exec_csrRead s a, ?_, ?_, ?_, ?_, ?_, s.csr_reserved⟩⟩
  · rintro rfl
    rw [State.csr_ctrl, ctrlWord_toNat]
  · rintro rfl
    rw [State.csr_bthr, bthrWord_toNat]
  · rintro rfl hl hv hh
    rw [State.csr_pstat, pstat_toNat_of_fits hl hv hh]
  · rintro rfl hq
    rw [State.csr_qstat, qstat_toNat, Nat.mod_eq_of_lt (by omega)]
  · rintro rfl hc
    rw [State.csr_cstat, cstat_toNat, Nat.mod_eq_of_lt (by omega)]

/-! ### Writes -/

theorem bthrField_eq_extractLsb' (v : Word) : bthrField v = v.extractLsb' 0 8 := by
  rw [bthrField, BitVec.setWidth_eq_extractLsb' (by decide)]

/-- What a write of CTRL leaves to be read: its two low bits (10_state.md R42). -/
theorem ctrlWord_ctrlFields (v : Word) : ctrlWord (ctrlEchoEn v) (ctrlHexStrict v) = v &&& 0x00000003 := by
  apply BitVec.eq_of_toNat_eq
  have hbits : (v &&& 0x00000003).toNat = v.toNat % 4 := Nat.and_two_pow_sub_one_eq_mod v.toNat 2
  have hecho : (ctrlEchoEn v).toNat = v.toNat / 2 ^ 0 % 2 := Nat.toNat_testBit v.toNat 0
  have hstrict : (ctrlHexStrict v).toNat = v.toNat / 2 ^ 1 % 2 := Nat.toNat_testBit v.toNat 1
  rw [ctrlWord_toNat, hbits, hecho, hstrict]
  omega

/-- What a write of BTHR leaves to be read: its low byte (10_state.md R43). -/
theorem bthrWord_bthrField (v : Word) : bthrWord (bthrField v) = v &&& 0x000000FF := by
  apply BitVec.eq_of_toNat_eq
  rw [bthrWord_toNat, BitVec.toNat_and, bthrField, BitVec.toNat_setWidth]
  exact (Nat.and_two_pow_sub_one_eq_mod v.toNat 8).symm

/-- A CSR write and a read of the same address: the read answers what the write left (10_state.md R42, R43). -/
theorem execAll_csrWrite_csrRead (a : Byte) (v : Word) (s : State) :
    ∃ t, execAll [.csrWrite a v, .csrRead a] s = .next t ∧ t.result = some (.word ((s.csrPut a v).csr a)) :=
  ⟨_, (execAll_cons (exec_csrWrite s a v)).trans (execAll_single _ _), rfl⟩

theorem State.csrPut_csr_ctrl (s : State) (v : Word) : (s.csrPut 0x00 v).csr 0x00 = v &&& 0x00000003 :=
  ctrlWord_ctrlFields v

theorem State.csrPut_csr_bthr (s : State) (v : Word) : (s.csrPut 0x04 v).csr 0x04 = v &&& 0x000000FF :=
  bthrWord_bthrField v

/-- Settles O21. -/
theorem csrWriteWritesControl : Obligations.CsrWriteWritesControl := by
  refine ⟨fun a v s => ?_, fun v s => ⟨?_, ?_⟩⟩
  · rw [exec_csrWrite, State.csrPut, bthrField_eq_extractLsb']
    split_ifs <;> rfl
  · rw [← s.csrPut_csr_ctrl v]
    exact execAll_csrWrite_csrRead 0x00 v s
  · rw [← s.csrPut_csr_bthr v]
    exact execAll_csrWrite_csrRead 0x04 v s

end Sys2Proof.Machine
end

section
/-! SUPPORT. The poll-burst counter (spec 45_tx_and_control.md R293, R294): which labels count, and when the count
transmits. -/

namespace Sys2Proof.Machine

theorem satInc_toNat (c : BitVec 8) : (satInc c).toNat = min (c.toNat + 1) 255 := by
  rw [satInc, BitVec.toNat_ofNat]
  omega

section
variable {s : State}

theorem State.drain_of_below (h : s.bcnt.toNat < max s.bthr.toNat 1) : s.drain = s := by
  rw [State.drain, if_neg (Nat.not_le.mpr h)]

theorem State.drain_of_empty (h : s.txq = []) : s.drain = s := by
  rw [State.drain, h, ite_self]

theorem State.drain_of_queued {e : Bytes} {q : List Bytes} (hq : s.txq = e :: q)
    (hreached : max s.bthr.toNat 1 ≤ s.bcnt.toNat) :
    s.drain = { s with txq := q, bcnt := 0, trace := s.trace ++ [.tx (encodeFrame e)] } := by
  rw [State.drain, if_pos hreached, hq]
  rfl

theorem State.burstCount_of_notMem {label : Bytes} (h : label ∉ s.cfg.burstLabels) : s.burstCount label = s := by
  rw [State.burstCount, if_neg h]

theorem State.burstCount_of_mem {label : Bytes} (h : label ∈ s.cfg.burstLabels) :
    s.burstCount label = { s with bcnt := satInc s.bcnt }.drain := by
  rw [State.burstCount, if_pos h]

end

/-- Settles O53: the drain test reads the raised count. -/
theorem burstCountDrainsTheQueue : Obligations.BurstCountDrainsTheQueue := by
  refine fun label s => ⟨State.burstCount_of_notMem, fun hcounted n hn => ?_⟩
  have hcount : (satInc s.bcnt).toNat = n := (satInc_toNat s.bcnt).trans hn.symm
  rw [State.burstCount_of_mem hcounted]
  refine ⟨fun hstay => ?_, fun e q hq hreached => ?_⟩
  · rw [hn, ← satInc]
    rcases hstay with hbelow | hempty
    · exact State.drain_of_below (by rwa [hcount])
    · exact State.drain_of_empty hempty
  · exact State.drain_of_queued hq (by rwa [hcount])

end Sys2Proof.Machine
end

section
/-! SUPPORT. What a received byte does to the queue and the cache (spec 45_tx_and_control.md R290, 44_register_cache.md
R264): the queue loses at most its head, and every entry of the cache stays one. -/

namespace Sys2Proof.Machine

/-- Every id with an entry in `c` has one in `c'`. -/
def KeepsEntries (c c' : Cache) : Prop := ∀ id : RegId, cacheFind id c ≠ none → cacheFind id c' ≠ none

theorem KeepsEntries.refl (c : Cache) : KeepsEntries c c := fun _ h => h

theorem KeepsEntries.put (id : RegId) (e : CacheEntry) (c : Cache) : KeepsEntries c (cachePut id e c) := fun j hj => by
  by_cases h : j = id
  · rw [h, cacheFind_put_same]; nofun
  · rwa [cacheFind_put_other h]

section
variable (s : State)

theorem State.setRegister_keepsEntries (id : RegId) (sc : Scale) (v : RegValue) :
    KeepsEntries s.cache (s.setRegister id sc v).cache := by
  rcases s.setRegister_cases id sc v with ⟨-, h⟩ | ⟨-, h⟩ <;> rw [h]
  · exact .put id _ s.cache
  · exact .refl s.cache

theorem State.textClassify_keepsEntries (label value : Bytes) :
    KeepsEntries s.cache (s.textClassify label value).cache := by
  rcases s.textClassify_cases label value with h | ⟨m, x, -, -, h⟩ <;> rw [h]
  · exact .refl s.cache
  · exact s.setRegister_keepsEntries m.id m.scale x

theorem State.regDecode_keepsEntries (d : Bytes) (id : RegId) (fl : Byte) :
    KeepsEntries s.cache (s.regDecode d id fl).cache := by
  rcases s.regDecode_cases d id fl with ⟨e, h⟩ | ⟨x, v, -, -, -, h⟩ <;> rw [h]
  · exact .refl s.cache
  · exact s.setRegister_keepsEntries id x.body.scale v

theorem State.dispatch_keepsEntries (d raw : Bytes) : KeepsEntries s.cache (s.dispatch d raw).cache := by
  rcases s.dispatch_cases d raw with ⟨e, h⟩ | ⟨f, -, -, h⟩ | ⟨f, -, -, h⟩ <;> rw [h]
  · exact .refl s.cache
  · exact .refl s.cache
  · exact (s.emit (.frame f)).regDecode_keepsEntries d _ _

theorem State.follow_keepsEntries (ev : ParserEvent) : KeepsEntries s.cache (s.follow ev).cache := by
  cases ev with
  | none => exact .refl s.cache
  | err e => exact .refl s.cache
  | text label value =>
    rw [State.follow, State.burstCount_cache]
    exact (s.emit (.textField label value)).textClassify_keepsEntries label value
  | hex d raw => exact s.dispatch_keepsEntries d raw

theorem State.burstCount_txq (label : Bytes) :
    (s.burstCount label).txq = s.txq ∨ (s.burstCount label).txq = s.txq.tail := by
  rcases s.burstCount_cases label with ⟨-, h⟩ | ⟨-, h⟩ | ⟨e, q, -, hq, -, h⟩ <;> rw [h]
  · exact .inl rfl
  · exact .inl rfl
  · exact .inr (by rw [hq, List.tail_cons])

theorem State.follow_txq (ev : ParserEvent) : (s.follow ev).txq = s.txq ∨ (s.follow ev).txq = s.txq.tail := by
  cases ev with
  | none => exact .inl rfl
  | err e => exact .inl rfl
  | text label value =>
    have hburst := ((s.emit (.textField label value)).textClassify label value).burstCount_txq label
    rwa [State.textClassify_txq, State.emit_txq] at hburst
  | hex d raw => exact .inl (s.dispatch_txq d raw)

end

/-- Settles O35: what follows the parser's event starts from the queue and the cache the byte found. -/
theorem rxByteWritesOnly : Obligations.RxByteWritesOnly := by
  intro b s
  refine ⟨_, exec_rxByte b s, s.receive_result _ _, s.receive_echoEn _ _, s.receive_hexStrict _ _,
    s.receive_bthr _ _, ?_, ?_⟩ <;> rw [State.receive_eq_follow]
  · exact (s.answered b _).follow_txq _
  · exact (s.answered b _).follow_keepsEntries _

end Sys2Proof.Machine
end

section
/-! SUPPORT. What transmits (spec 45_tx_and_control.md R294, R310): of all named operations only the poll-burst counter
appends to TX, and what it appends is the oldest queued entry, encoded whole. -/

namespace Sys2Proof.Machine

/-! ### Operations that do not transmit -/

/-- Events in the trace are no part of TX. -/
theorem State.tx_of_trace_events {s t : State} {es : List Event} (h : t.trace = s.trace ++ es.map .evt) :
    t.tx = s.tx := by
  simp [State.tx_append h, List.flatMap_map, outputTx]

section
variable (s : State)

@[simp] theorem State.tx_csrPut (a : Byte) (v : Word) : (s.csrPut a v).tx = s.tx := by
  unfold State.csrPut
  split
  · rfl
  · split <;> rfl

@[simp] theorem State.tx_invalidate (id : RegId) : (s.invalidate id).tx = s.tx :=
  State.tx_of_trace (s.invalidate_trace id)

@[simp] theorem State.tx_setRegister (id : RegId) (sc : Scale) (v : RegValue) : (s.setRegister id sc v).tx = s.tx :=
  State.tx_of_trace_events (s.setRegister_trace id sc v)

@[simp] theorem State.tx_textClassify (label value : Bytes) : (s.textClassify label value).tx = s.tx := by
  obtain ⟨second, -, h⟩ := s.textClassify_secondEvents label value
  exact State.tx_of_trace_events h

@[simp] theorem State.tx_applyDecoded (id : RegId) (sc : Scale) (d : Bytes) (r : Option RegValue) :
    (s.applyDecoded id sc d r).tx = s.tx := by
  rcases s.applyDecoded_cases id sc d r with ⟨-, h⟩ | ⟨v, -, h⟩ <;> rw [h]
  · exact s.tx_raise _
  · exact s.tx_setRegister id sc v

@[simp] theorem State.tx_regDecode (d : Bytes) (id : RegId) (fl : Byte) : (s.regDecode d id fl).tx = s.tx := by
  rcases s.regDecode_cases d id fl with ⟨e, h⟩ | ⟨x, v, -, -, -, h⟩ <;> rw [h]
  · exact s.tx_raise e
  · exact s.tx_setRegister id x.body.scale v

@[simp] theorem State.tx_dispatchReg (d raw : Bytes) : (s.dispatchReg d raw).tx = s.tx := by
  unfold State.dispatchReg
  split <;> simp

@[simp] theorem State.tx_dispatchPing (d raw : Bytes) : (s.dispatchPing d raw).tx = s.tx := by
  unfold State.dispatchPing
  split <;> simp

@[simp] theorem State.tx_dispatchNone (d raw : Bytes) : (s.dispatchNone d raw).tx = s.tx := s.tx_emit _

@[simp] theorem State.tx_dispatch (d raw : Bytes) : (s.dispatch d raw).tx = s.tx := by
  unfold State.dispatch
  split <;> simp

@[simp] theorem State.tx_takeError (e : BlockError) : (s.takeError e).tx = s.tx :=
  State.tx_of_trace_events (es := [.error e]) (s.takeError_trace e)

theorem State.tx_answered (b : Byte) (p : Parser) : (s.answered b p).tx = s.tx := by
  simp [State.tx_append (s.answered_trace b p), List.flatMap_map, outputTx]

end

/-! ### The transmit of a counted label -/

/-- Between `s` and `t` the oldest queued entry was transmitted whole and the count started anew. -/
def SendsOldest (s t : State) : Prop :=
  ∃ (e : Bytes) (q : List Bytes), s.txq = e :: q ∧ t.txq = q ∧ t.bcnt = 0 ∧ t.tx = s.tx ++ encodeFrame e

theorem State.burstCount_sendsOldest {s : State} {label : Bytes} (h : (s.burstCount label).tx ≠ s.tx) :
    label ∈ s.cfg.burstLabels ∧ SendsOldest s (s.burstCount label) := by
  rcases s.burstCount_cases label with ⟨-, hsame⟩ | ⟨-, hraised⟩ | ⟨e, q, hlabel, hq, -, hsent⟩
  · exact absurd (congrArg State.tx hsame) h
  · exact absurd (congrArg State.tx hraised) h
  · rw [hsent]
    exact ⟨hlabel, e, q, hq, rfl, rfl, by simp [State.tx, outputTx]⟩

/-- After the parser's event, only a TextField of a counted label transmits. -/
theorem State.follow_sendsOldest {s : State} {ev : ParserEvent} (h : (s.follow ev).tx ≠ s.tx) :
    ∃ label value, ev = .text label value ∧ label ∈ s.cfg.burstLabels ∧ SendsOldest s (s.follow ev) := by
  cases ev with
  | none => exact absurd rfl h
  | err e => exact absurd (s.tx_raise e) h
  | hex d raw => exact absurd (s.tx_dispatch d raw) h
  | text label value =>
    refine ⟨label, value, rfl, ?_⟩
    have hclassified : ((s.emit (.textField label value)).textClassify label value).tx = s.tx := by simp
    have hburst := State.burstCount_sendsOldest (h.trans_eq hclassified.symm)
    unfold SendsOldest at hburst ⊢
    rwa [hclassified, State.textClassify_cfg, State.textClassify_txq] at hburst

/-- A received byte transmits only where the parser's answer is a TextField of a counted label. -/
theorem State.receive_sendsOldest {s : State} {b : Byte} {r : Parser × ParserEvent} (h : (s.receive b r).tx ≠ s.tx) :
    ∃ label value, r.2 = .text label value ∧ label ∈ s.cfg.burstLabels ∧ SendsOldest s (s.receive b r) := by
  rw [State.receive_eq_follow] at h ⊢
  have hfollow := State.follow_sendsOldest (h.trans_eq (s.tx_answered b r.1).symm)
  unfold SendsOldest at hfollow ⊢
  rwa [State.tx_answered] at hfollow

/-! ### Every operation -/

/-- The end of a line transmits only where it completes a record of a counted label. -/
theorem State.receive_parseEol_sendsOldest {s : State} {b : Byte}
    (h : (s.receive b (parseEol s.cfg s.hexStrict s.parser)).tx ≠ s.tx) :
    s.parser.ps = .readingValue ∧ s.parser.lbuf ∈ s.cfg.burstLabels ∧
      SendsOldest s (s.receive b (parseEol s.cfg s.hexStrict s.parser)) := by
  obtain ⟨label, value, htext, hlabel, hsent⟩ := State.receive_sendsOldest h
  obtain ⟨hps, -, rfl, -⟩ := parseEol_event_text htext
  exact ⟨hps, hlabel, hsent⟩

theorem exec_enqueue_tx {bs : Bytes} {s t : State} (h : exec (.enqueue bs) s = .next t) : t.tx = s.tx := by
  rw [exec_enqueue] at h
  cases h
  split <;> rfl

section
variable {p : Parser} {label value : Bytes}

theorem parseColon_event_ne_text : (parseColon p).2 ≠ .text label value := nofun

theorem parseTab_event_ne_text : (parseTab p).2 ≠ .text label value := by
  rw [parseTab_event]; nofun

end

/-- A byte that does not complete a record leaves TX as it is. -/
theorem State.tx_receive_of_ne_text (s : State) (b : Byte) {r : Parser × ParserEvent}
    (h : ∀ label value, r.2 ≠ .text label value) : (s.receive b r).tx = s.tx := by
  by_contra hne
  obtain ⟨label, value, htext, -⟩ := State.receive_sendsOldest hne
  exact h label value htext

/-- Settles O54: of the rows of the received bytes only CR and LF complete a record, and no other row appends to TX. -/
theorem onlyCountedTextFieldsTransmit : Obligations.OnlyCountedTextFieldsTransmit := by
  intro i s t h hne
  cases i with
  | byteCr => cases h; exact ⟨.inl rfl, State.receive_parseEol_sendsOldest hne⟩
  | byteLf => cases h; exact ⟨.inr (.inl rfl), State.receive_parseEol_sendsOldest hne⟩
  | rxByte b =>
    cases h
    obtain ⟨label, value, htext, hlabel, hsent⟩ := State.receive_sendsOldest hne
    obtain ⟨hb, hps, -, rfl, -⟩ := parserStep_event_text htext
    refine ⟨?_, hps, hlabel, hsent⟩
    rcases hb with rfl | rfl
    · exact .inr (.inr (.inl rfl))
    · exact .inr (.inr (.inr rfl))
  | byteColon => cases h; exact absurd (s.tx_receive_of_ne_text _ fun _ _ => parseColon_event_ne_text) hne
  | byteTab => cases h; exact absurd (s.tx_receive_of_ne_text _ fun _ _ => parseTab_event_ne_text) hne
  | byteHexdig _ | byteLabelOnly _ =>
    cases h; exact absurd (s.tx_receive_of_ne_text _ fun _ _ => parseLabelClass_event_ne_text) hne
  | byteOther _ => cases h; exact absurd (s.tx_receive_of_ne_text _ fun _ _ => parseOtherClass_event_ne_text) hne
  | enqueue bs => exact absurd (exec_enqueue_tx h) hne
  | encode _ | decodeFrame _ | cacheRead _ | csrRead _ | reservedOp _ | sessionReset | reset =>
    cases h; exact absurd rfl hne
  | cacheInvalidate id => cases h; exact absurd (s.tx_invalidate id) hne
  | csrWrite a v => cases h; exact absurd (s.tx_csrPut a v) hne
  | ping _ _ | appver _ _ | productId _ _ | restart _ _ | unassignedCmd _ _ _ =>
    cases h; exact absurd (s.tx_dispatchNone _ _) hne
  | pingResponse _ _ => cases h; exact absurd (s.tx_dispatchPing _ _) hne
  | get _ _ | set _ _ | async _ _ => cases h; exact absurd (s.tx_dispatchReg _ _) hne
  | descScalarNumeric _ _ _ _ | descBitFlags _ _ _ _ | descEnum _ _ _ _ _ | descCompositeRecord _ _ _ _ _
  | descRawString _ _ _ _ => cases h; exact absurd (s.tx_applyDecoded _ _ _ _) hne
  | evtTextField _ _ | evtFrame _ | evtCacheChange _ _ _ => cases h; exact absurd (s.tx_emit _) hne
  | evtError e => cases h; exact absurd (s.tx_raise e) hne
  | errChecksumMismatch _ | errInvalidLabelChar _ | errLabelTooLong | errUnknownRegister _ _
  | errPayloadTooShort _ _ => cases h; exact absurd (s.tx_takeError _) hne

end Sys2Proof.Machine
end

section
/-! SUPPORT. What a received byte that raises an error leaves (spec 60_exceptions.md R323): the parser in Idle, and
of the rest of the state only the trace is new. -/

namespace Sys2Proof.Machine

/-! ### Where the parser stands when its event can raise -/

/-- The parser's events that can raise: an error of its own, and a frame, which the dispatch may reject
(60_exceptions.md R320). -/
def ParserEvent.CanRaise : ParserEvent → Prop
  | .err _ | .hex _ _ => True
  | .none | .text _ _ => False

section
variable {c : Cfg} {strict : Bool} {p : Parser} {b : Byte}

/-- The end of a line has such an event only where a frame ends, which goes to Idle (41_record_parser.md R180). -/
theorem parseEol_idle_of_canRaise (h : (parseEol c strict p).2.CanRaise) : (parseEol c strict p).1.ps = .idle := by
  unfold parseEol at h ⊢
  cases hps : p.ps with
  | idle | readingLabel | sawTab => rw [hps] at h; exact h.elim
  | readingValue =>
    rw [hps] at h
    dsimp only at h
    split_ifs at h <;> exact h.elim
  | readingHexDigits =>
    rw [hps] at h
    dsimp only at h ⊢
    split_ifs at h ⊢
    · exact h.elim
    · rfl

/-- A label byte has such an event only where the label is full, which goes to Idle (41_record_parser.md R183). -/
theorem labelByte_idle_of_canRaise (h : (labelByte b p).2.CanRaise) : (labelByte b p).1.ps = .idle := by
  unfold labelByte at h ⊢
  split_ifs at h ⊢
  · exact h.elim
  · rfl

theorem parseLabelClass_idle_of_canRaise (h : (parseLabelClass c b p).2.CanRaise) :
    (parseLabelClass c b p).1.ps = .idle := by
  unfold parseLabelClass at h ⊢
  cases hps : p.ps with
  | readingLabel => rw [hps] at h; exact labelByte_idle_of_canRaise h
  | idle | sawTab | readingValue | readingHexDigits => rw [hps] at h; exact h.elim

/-- A byte of class OTHER has such an event only in a label, where it goes to Idle (41_record_parser.md R182). -/
theorem parseOtherClass_idle_of_canRaise (h : (parseOtherClass c b p).2.CanRaise) :
    (parseOtherClass c b p).1.ps = .idle := by
  unfold parseOtherClass at h ⊢
  cases hps : p.ps with
  | readingLabel => rfl
  | idle | sawTab | readingValue | readingHexDigits => rw [hps] at h; exact h.elim

/-- The parser goes to Idle with every event that can raise. -/
theorem parserStep_idle_of_canRaise (h : (parserStep c strict p b).2.CanRaise) :
    (parserStep c strict p b).1.ps = .idle := by
  unfold parserStep at h ⊢
  cases hclass : classOf b with
  | colon => rw [hclass] at h; exact h.elim
  | tab =>
    rw [hclass] at h
    dsimp only at h
    rw [parseTab_event] at h
    exact h.elim
  | cr | lf => rw [hclass] at h; exact parseEol_idle_of_canRaise h
  | hexdig | labelOnly => rw [hclass] at h; exact parseLabelClass_idle_of_canRaise h
  | other => rw [hclass] at h; exact parseOtherClass_idle_of_canRaise h

/-- In Idle the buffers are empty (10_state.md R38). -/
theorem Parser.Shaped.eq_start (h : p.Shaped) (hps : p.ps = .idle) : p = Parser.start := by
  obtain ⟨ps, l, v, x⟩ := p
  obtain rfl : ps = .idle := hps
  obtain ⟨rfl, rfl, rfl⟩ := h
  rfl

end

/-! ### Operations that raise nothing, or write nothing but the trace -/

/-- The Error events of a state. -/
def State.errors (s : State) : List Event := s.evt.filter isError

/-- Without a new Error event, none of the new events is one. -/
theorem State.error_notMem_of_errors {s t : State} {new : List Event} (hevt : t.evt = s.evt ++ new)
    (herrors : t.errors = s.errors) (e : BlockError) : Event.error e ∉ new := fun hmem => by
  rw [State.errors, hevt, List.filter_append, ← State.errors, List.append_right_eq_self,
    List.filter_eq_nil_iff] at herrors
  exact herrors _ hmem rfl

section
variable (s : State)

theorem State.errors_emit {e : Event} (h : isError e = false) : (s.emit e).errors = s.errors := by
  simp [State.errors, h]

theorem State.errors_setRegister (id : RegId) (sc : Scale) (v : RegValue) :
    (s.setRegister id sc v).errors = s.errors := by
  rcases s.setRegister_cases id sc v with ⟨-, h⟩ | ⟨-, h⟩ <;> rw [h]
  exact s.errors_emit (e := .cacheChange id sc v) rfl

theorem State.errors_textClassify (label value : Bytes) : (s.textClassify label value).errors = s.errors := by
  rcases s.textClassify_cases label value with h | ⟨m, x, -, -, h⟩ <;> rw [h]
  exact s.errors_setRegister m.id m.scale x

theorem State.errors_burstCount (label : Bytes) : (s.burstCount label).errors = s.errors := by
  obtain ⟨sent, -, h⟩ := s.burstCount_trace label
  simp [State.errors, State.evt_append h, List.filterMap_map, Function.comp_def, outputEvent]

/-- The register decode raises nothing, or writes nothing but the trace (43_register_decode.md R231-R233). -/
theorem State.regDecode_errors_or (d : Bytes) (id : RegId) (fl : Byte) :
    (s.regDecode d id fl).errors = s.errors ∨ ∃ u, s.regDecode d id fl = s.withTrace u := by
  rcases s.regDecode_cases d id fl with ⟨e, h⟩ | ⟨x, v, -, -, -, h⟩ <;> rw [h]
  · exact .inr ⟨_, rfl⟩
  · exact .inl (s.errors_setRegister id x.body.scale v)

theorem State.dispatch_errors_or (d raw : Bytes) :
    (s.dispatch d raw).errors = s.errors ∨ ∃ u, s.dispatch d raw = s.withTrace u := by
  rcases s.dispatch_cases d raw with ⟨e, h⟩ | ⟨f, -, -, h⟩ | ⟨f, -, -, h⟩ <;> rw [h]
  · exact .inr ⟨_, rfl⟩
  · exact .inr ⟨_, rfl⟩
  · rcases (s.emit (.frame f)).regDecode_errors_or d (frameId d) (frameFlags d) with herrors | ⟨u, hu⟩
    · exact .inl (herrors.trans (s.errors_emit rfl))
    · exact .inr ⟨u, hu⟩

/-- What follows the parser's event raises nothing, or the event can raise and nothing but the trace is written. -/
theorem State.follow_errors_or (ev : ParserEvent) :
    (s.follow ev).errors = s.errors ∨ ev.CanRaise ∧ ∃ u, s.follow ev = s.withTrace u := by
  cases ev with
  | none => exact .inl rfl
  | err e => exact .inr ⟨trivial, _, rfl⟩
  | text label value =>
    refine .inl ?_
    rw [State.follow, State.errors_burstCount, State.errors_textClassify, State.errors_emit s rfl]
  | hex d raw => exact (s.dispatch_errors_or d raw).imp_right fun h => ⟨trivial, h⟩

end

/-- A received byte that raises leaves the parser idle and empty, and writes nothing else but the trace and the result
(60_exceptions.md R323). -/
theorem exec_rxByte_of_error {b : Byte} {s t : State} {new : List Event} {e : BlockError} (hinv : s.Inv)
    (hexec : exec (.rxByte b) s = .next t) (hevt : t.evt = s.evt ++ new) (hmem : Event.error e ∈ new) :
    ∃ u, t = (s.parsed Parser.start).withTrace u := by
  obtain rfl : s.receive b (parserStep s.cfg s.hexStrict s.parser b) = t := Host.Outcome.next.inj hexec
  rw [State.receive_eq_follow] at hevt ⊢
  rcases (s.answered b (parserStep s.cfg s.hexStrict s.parser b).1).follow_errors_or
    (parserStep s.cfg s.hexStrict s.parser b).2 with herrors | ⟨hraise, u, hu⟩
  · rw [← s.evt_answered b (parserStep s.cfg s.hexStrict s.parser b).1] at hevt
    exact absurd hmem (State.error_notMem_of_errors hevt herrors e)
  · have hparser : (parserStep s.cfg s.hexStrict s.parser b).1 = Parser.start :=
      (hinv.parser_shaped.parserStep s.hexStrict b).eq_start (parserStep_idle_of_canRaise hraise)
    rw [hparser] at hu ⊢
    exact ⟨u, hu⟩

/-- Settles O32: the state after the error is the one before it with the parser at its start and a longer trace. -/
theorem errorsLeaveTheParserIdle : Obligations.ErrorsLeaveTheParserIdle := by
  intro b s t new e hinv hexec hevt hmem
  obtain ⟨u, rfl⟩ := exec_rxByte_of_error hinv hexec hevt hmem
  exact ⟨rfl, rfl, rfl, rfl, rfl, rfl, rfl, fun b' => exec_eq_next (.rxByte b') _⟩

end Sys2Proof.Machine
end

section
/-! SUPPORT. The two resets and the state at power-on (spec 70_reset_and_hazards.md, section 1). -/

namespace Sys2Proof.Machine

/-- RESET is `State.resetAll`, answered OK (45_tx_and_control.md R304). -/
theorem exec_reset (s : State) : exec .reset s = .next (s.resetAll.withResult (some .ok)) := rfl

/-- SESSION_RESET is `State.resetSession`, answered OK (45_tx_and_control.md R299). -/
theorem exec_sessionReset (s : State) : exec .sessionReset s = .next (s.resetSession.withResult (some .ok)) := rfl

/-- RESET takes an instance back to the state it was built in, up to what R350 keeps: the output streams, and the
model's own `result` and `pending`. -/
theorem State.resetAll_eq_ofCfg (s : State) :
    s.resetAll = { State.ofCfg s.cfg with trace := s.trace, result := s.result, pending := s.pending } := rfl

/-- The state at power-on is the state after RESET: a RESET right after it changes nothing
(70_reset_and_hazards.md R350). -/
theorem State.resetAll_reset : State.reset.resetAll = State.reset := State.reset.resetAll_eq_ofCfg

/-- The table of R350, whatever the state before. -/
theorem State.resetAll_elements (s : State) :
    s.resetAll.parser = ⟨.idle, [], [], []⟩ ∧ s.resetAll.cache = [] ∧ s.resetAll.txq = [] ∧ s.resetAll.bcnt = 0 ∧
      s.resetAll.echoEn = false ∧ s.resetAll.hexStrict = false ∧ s.resetAll.bthr = 9 :=
  ⟨s.resetAll_parser, s.resetAll_cache, s.resetAll_txq, s.resetAll_bcnt, s.resetAll_echoEn, s.resetAll_hexStrict,
    s.resetAll_bthr⟩

/-- Settles O22: the power-on values are those of R350's table, because RESET leaves the power-on state as it is. -/
theorem resetsLeave : Obligations.ResetsLeave := by
  have hpowerOn := State.reset.resetAll_elements
  rw [State.resetAll_reset] at hpowerOn
  exact ⟨exec_reset, exec_sessionReset, hpowerOn⟩

end Sys2Proof.Machine
end
